-- ==== Sys2Proof/Word.lean ====
section
/-! DEFINITION. The word types of the codec: bytes, 16-bit wire fields, 32-bit host words (spec/00_scope.md R9, R12). -/

namespace Sys2Proof

/-- One frame element, one transport slot, one buffer byte (R9, R12). -/
abbrev Byte := BitVec 8

/-- A 16-bit wire field or register field (R12). -/
abbrev Half := BitVec 16

/-- A word of the host interface (R22, R33). -/
abbrev Word := BitVec 32

end Sys2Proof
end

