-- ==== Sys2Proof/Config.lean ====
section
/-! DEFINITION. What an implementation fixes (M_MAX) and the free values of spec/93, each a constant without a body, so that
no proof can see which value it has. -/

namespace Sys2Proof.Config

/-- M_MAX less one. The source fixes no M_MAX; R7 leaves it OPEN with 1 ≤ M_MAX ≤ 65535 (log 1). -/
opaque mMaxLessOne : Fin 65535

/-- The M_MAX that the reset state carries in CAPS: some number of 1 to 65535 (R7, R32; log 1). -/
def mMax : Half := BitVec.ofNat 16 (mMaxLessOne.val + 1)

/-- What a byte of VBUF that nothing has written since reset number `epoch` reads as, by offset (R37, R251, U7; log 5). -/
opaque unwrittenVbuf (epoch offset : Nat) : Byte

/-- What a byte of TXBUF that nothing has written since reset number `epoch` reads as, by offset (R37, R251, U7; log 5). -/
opaque unwrittenTxbuf (epoch offset : Nat) : Byte

/-- What a byte of RXBUF that nothing has written since reset number `epoch` reads as, by offset (R37, R251, U7; log 5). -/
opaque unwrittenRxbuf (epoch offset : Nat) : Byte

/-- What a RES entry that nothing has written since reset number `epoch` reads as, by index (R37, R251, U7; log 5). -/
opaque unwrittenRes (epoch index : Nat) : Word

/-- Byte `offset` of RXBUF after the failed exchange that made draw number `draw` (R195, U8; log 7). -/
opaque failedRx (draw offset : Nat) : Byte

/-- Byte `offset` of an Ok answer that brought fewer than L bytes, at draw number `draw` (R190; log 9). -/
opaque missingRx (draw offset : Nat) : Byte

/-- The value of host read number `draw` among those that R67 leaves unspecified (U9; log 8). -/
opaque busyRead (draw : Nat) : Word

end Sys2Proof.Config
end

