-- ==== Sys2Proof/Machine/Frame.lean ====
section
/-! DEFINITION. The wire protocol as pure functions: constants, fields, frame layouts, slots and phases, and the decoding of a
response (spec/30_encoding.md, spec/41_framecodec.md, spec/42_batchcomposer.md). -/

namespace Sys2Proof.Machine

/-- The per-sample frame kind (R39, R100). -/
inductive FrameKind where
  | learn
  | classify
  deriving DecidableEq, Repr

/-- The field a transmit slot carries (R101). -/
inductive Phase where
  | cmd
  | lenHi
  | lenLo
  | vec (j : Nat)
  | cat
  | selDist
  | padDist (p : Nat)
  | selCat
  | padCat (p : Nat)
  deriving DecidableEq, Repr

/-- The role of a receive slot (R101). -/
inductive Role where
  | distHi
  | distLo
  | catHi
  | catLo
  | ignored
  deriving DecidableEq, Repr

/-- A ClassificationResult (R33). -/
structure Result where
  distance : Half
  category : Half
  deriving DecidableEq, Repr

/-- N_MAX (R6). -/
abbrev nMax : Nat := 64

/-- The command byte of a frame of this kind: LEARN_COMMAND or CLASSIFY_COMMAND (R91). -/
def commandByte : FrameKind → Byte
  | .learn => 0x60
  | .classify => 0x40

/-- READ_DISTANCE (R91). -/
def readDistanceByte : Byte := 0x83

/-- READ_CATEGORY (R91). -/
def readCategoryByte : Byte := 0x84

/-- DUMMY (R91, R154). -/
def dummyByte : Byte := 0x00

/-- be16: the high byte first (R13). -/
def be16 (x : Half) : List Byte := [x.extractLsb' 8 8, x.extractLsb' 0 8]

/-- unbe16: two unsigned bytes, high byte first, no sign extension (R13, R157). -/
def unbe16 (h l : Byte) : Half := h ++ l

/-- The length field holds N-1, never N (R92, R151). -/
def lengthField (n : Nat) : Half := BitVec.ofNat 16 (n - 1)

/-- The category byte of a LEARN frame, c mod 256 (R106). -/
def categoryByte (c : Half) : Byte := c.extractLsb' 0 8

/-- S'(kind), the length of one sample's frame (R95, R96, R100). -/
def strideOf (kind : FrameKind) (n : Nat) : Nat :=
  match kind with
  | .learn => n + 4
  | .classify => n + 11

/-- learn_frame (R150). -/
def learnFrame (v : List Byte) (c : Half) : List Byte :=
  [commandByte .learn] ++ be16 (lengthField v.length) ++ v ++ [categoryByte c]

/-- The selectors with their padding slots, the last eight bytes of a CLASSIFY frame (R94, R154, R257). -/
def selectorTail : List Byte :=
  [readDistanceByte, dummyByte, dummyByte, dummyByte] ++ [readCategoryByte, dummyByte, dummyByte, dummyByte]

/-- classify_frame (R153). -/
def classifyFrame (v : List Byte) : List Byte :=
  [commandByte .classify] ++ be16 (lengthField v.length) ++ v ++ selectorTail

/-- multi_frame: the frames of the samples end to end, with no header or trailer (R97, R98, R170). -/
def multiFrame (vs : List (List Byte)) : List Byte := (vs.map classifyFrame).flatten

/-- The phase of transmit slot k, none where the frame has no such slot (R100, R101). -/
def phaseOf (kind : FrameKind) (n k : Nat) : Option Phase :=
  if k = 0 then some .cmd
  else if k = 1 then some .lenHi
  else if k = 2 then some .lenLo
  else if k ≤ n + 2 then some (.vec (k - 3))
  else match kind with
    | .learn => if k = n + 3 then some .cat else none
    | .classify =>
      if k = n + 3 then some .selDist
      else if k ≤ n + 6 then some (.padDist (k - (n + 4)))
      else if k = n + 7 then some .selCat
      else if k ≤ n + 10 then some (.padCat (k - (n + 8)))
      else none

/-- The byte a phase sends, for the category c and the vector read through `v` (R100). -/
def phaseByte (kind : FrameKind) (n : Nat) (c : Half) (v : Nat → Byte) : Phase → Byte
  | .cmd => commandByte kind
  | .lenHi => (lengthField n).extractLsb' 8 8
  | .lenLo => (lengthField n).extractLsb' 0 8
  | .vec j => v j
  | .cat => categoryByte c
  | .selDist => readDistanceByte
  | .padDist _ => dummyByte
  | .selCat => readCategoryByte
  | .padCat _ => dummyByte

/-- frame_byte, none for a slot the frame does not have (R100). -/
def frameByte (kind : FrameKind) (n : Nat) (c : Half) (v : Nat → Byte) (k : Nat) : Option Byte :=
  (phaseOf kind n k).map (phaseByte kind n c v)

/-- The role of receive slot k: four slots of a CLASSIFY sample carry the response, no slot of a LEARN frame does (R99, R101). -/
def receiveRole (kind : FrameKind) (n k : Nat) : Role :=
  match kind with
  | .learn => .ignored
  | .classify =>
    if k = n + 5 then .distHi
    else if k = n + 6 then .distLo
    else if k = n + 9 then .catHi
    else if k = n + 10 then .catLo
    else .ignored

/-- decode_classify on the bytes read through `r`, at base b (R99, R156). -/
def decodeClassify (r : Nat → Byte) (b n : Nat) : Result :=
  { distance := unbe16 (r (b + n + 5)) (r (b + n + 6))
    category := unbe16 (r (b + n + 9)) (r (b + n + 10)) }

/-- decode_multi: result i comes from sample i, in input order (R173, R174). -/
def decodeMulti (r : Nat → Byte) (m n : Nat) : List Result :=
  (List.range m).map fun i => decodeClassify r (i * strideOf .classify n) n

/-- The word of a RES entry: distance in [31:16], category in [15:0] (R33). -/
def resultWord (x : Result) : Word := x.distance ++ x.category

/-- The entry a 32-bit word stands for, the inverse of `resultWord` (R33). -/
def wordResult (w : Word) : Result :=
  { distance := w.extractLsb' 16 16, category := w.extractLsb' 0 16 }

end Sys2Proof.Machine
end

