-- ==== Sys2Proof/Syntax.lean ====
section
/-! DEFINITION. The rows of spec/opcode_table.json: eight host operations (R110) and five wire bytes (R91). No row has an
operand field: the operands are registers and buffers (R113). -/

namespace Sys2Proof

/-- One constructor per row of the opcode table. -/
inductive Instr where
  /-- ENC_LEARN, op code 0x01 (R152). -/
  | encLearn
  /-- ENC_CLASSIFY, op code 0x02 (R155). -/
  | encClassify
  /-- ENC_CLASSIFY_MULTI, op code 0x03 (R172). -/
  | encClassifyMulti
  /-- DEC_CLASSIFY, op code 0x04 (R158). -/
  | decClassify
  /-- DEC_CLASSIFY_MULTI, op code 0x05 (R175). -/
  | decClassifyMulti
  /-- TXN_LEARN, op code 0x09 (R196). -/
  | txnLearn
  /-- TXN_CLASSIFY, op code 0x0A (R197). -/
  | txnClassify
  /-- TXN_CLASSIFY_MULTI, op code 0x0B (R198). -/
  | txnClassifyMulti
  /-- LEARN_COMMAND, wire byte 0x60, byte 0 of a LEARN frame (R91, R93). -/
  | learnCommand
  /-- CLASSIFY_COMMAND, wire byte 0x40, byte 0 of a CLASSIFY frame (R91, R94). -/
  | classifyCommand
  /-- READ_DISTANCE, wire byte 0x83, byte N+3 of a CLASSIFY frame (R91, R94). -/
  | readDistance
  /-- READ_CATEGORY, wire byte 0x84, byte N+7 of a CLASSIFY frame (R91, R94). -/
  | readCategory
  /-- DUMMY, wire byte 0x00, the padding of a CLASSIFY frame (R91, R154). -/
  | dummy
  deriving DecidableEq, Repr

end Sys2Proof
end

