-- ==== Sys2Proof/WellFormed.lean ====
section
/-! DEFINITION. Where a row of the opcode table may stand: a host operation as an op code, a wire byte as a frame byte (R90). -/

namespace Sys2Proof

/-- The two levels of encoding (R90). -/
inductive Format where
  /-- The 8-bit op code the host writes to OP. -/
  | hostOp
  /-- A byte of a frame on the wire. -/
  | wireByte
  deriving DecidableEq, Repr

/-- The format of an instruction's row in the opcode table. -/
def Instr.format : Instr → Format
  | .encLearn => .hostOp
  | .encClassify => .hostOp
  | .encClassifyMulti => .hostOp
  | .decClassify => .hostOp
  | .decClassifyMulti => .hostOp
  | .txnLearn => .hostOp
  | .txnClassify => .hostOp
  | .txnClassifyMulti => .hostOp
  | .learnCommand => .wireByte
  | .classifyCommand => .wireByte
  | .readDistance => .wireByte
  | .readCategory => .wireByte
  | .dummy => .wireByte

/-- An instruction is well-formed in a format when its row has that format: 0x60 is no op code, ENC_LEARN no wire byte (R90,
R108, R112). -/
abbrev Instr.WellFormedIn (f : Format) (i : Instr) : Prop := i.format = f

end Sys2Proof
end

