-- ==== Sys2Proof/Decode.lean ====
section
/-! DEFINITION. The decoder of the two encodings (R90), the opcode table it reads (R91, R110), the encoder, and the reading of
whole frames from a byte stream (R107). Every function is total and rejects by name. -/

namespace Sys2Proof

/-- Why a byte decodes to no instruction. -/
inductive DecodeReject where
  /-- No byte is left to decode. -/
  | truncated
  /-- A reserved op code (R112): issuing it ends in BAD_OP (R222). -/
  | reservedOpCode (code : Byte)
  /-- A byte that is none of the five wire constants (R91, R108). -/
  | notAWireConstant (byte : Byte)
  deriving DecidableEq, Repr

/-- A row of the opcode table: a byte b belongs to it when b AND mask is the pattern. -/
structure TableRow where
  format  : Format
  mask    : Byte
  pattern : Byte
  instr   : Instr
  deriving DecidableEq, Repr

/-- The opcode table (R91, R110). -/
def opcodeTable : List TableRow :=
  [ ⟨.hostOp, 0xFF, 0x01, .encLearn⟩,
    ⟨.hostOp, 0xFF, 0x02, .encClassify⟩,
    ⟨.hostOp, 0xFF, 0x03, .encClassifyMulti⟩,
    ⟨.hostOp, 0xFF, 0x04, .decClassify⟩,
    ⟨.hostOp, 0xFF, 0x05, .decClassifyMulti⟩,
    ⟨.hostOp, 0xFF, 0x09, .txnLearn⟩,
    ⟨.hostOp, 0xFF, 0x0A, .txnClassify⟩,
    ⟨.hostOp, 0xFF, 0x0B, .txnClassifyMulti⟩,
    ⟨.wireByte, 0xFF, 0x60, .learnCommand⟩,
    ⟨.wireByte, 0xFF, 0x40, .classifyCommand⟩,
    ⟨.wireByte, 0xFF, 0x83, .readDistance⟩,
    ⟨.wireByte, 0xFF, 0x84, .readCategory⟩,
    ⟨.wireByte, 0xFF, 0x00, .dummy⟩ ]

/-- Whether a byte belongs to a row in a format. -/
def TableRow.covers (r : TableRow) (f : Format) (b : Byte) : Bool :=
  r.format == f && (b &&& r.mask) == r.pattern

/-- The name under which a byte is rejected in a format. -/
def rejectByte (f : Format) (b : Byte) : DecodeReject :=
  match f with
  | .hostOp => .reservedOpCode b
  | .wireByte => .notAWireConstant b

/-- Decodes one byte in a format. -/
def decodeByte (f : Format) (b : Byte) : Except DecodeReject Instr :=
  match opcodeTable.find? (fun r => r.covers f b) with
  | some r => .ok r.instr
  | none => .error (rejectByte f b)

/-- Decodes the first byte of a stream in a format and gives the rest; every encoding is one byte long (R109, R110). -/
def decode (f : Format) : List Byte → Except DecodeReject (Instr × List Byte)
  | [] => .error .truncated
  | b :: rest =>
    match decodeByte f b with
    | .ok i => .ok (i, rest)
    | .error e => .error e

/-- OP.CODE of the word a host writes to OP; bits [31:8] are ignored (R23). -/
def opCodeOf (x : Word) : Byte := x.extractLsb' 0 8

/-- Decodes the word a host writes to OP (R23, R110). -/
def decodeOpWord (x : Word) : Except DecodeReject Instr := decodeByte .hostOp (opCodeOf x)

/-- The instruction of a table word: an op code where the byte is an assigned one, else a wire constant. No byte is both, since
0x00 is a reserved op code (R112; log 12). -/
def decodeTableWord (nbits w : Nat) : Option Instr :=
  if nbits = 8 then
    match decode .hostOp [BitVec.ofNat 8 w] with
    | .ok (i, _) => some i
    | .error _ =>
      match decode .wireByte [BitVec.ofNat 8 w] with
      | .ok (i, _) => some i
      | .error _ => none
  else none

/-- The byte of an instruction (R91, R110). -/
def encodeByte : Instr → Byte
  | .encLearn => 0x01
  | .encClassify => 0x02
  | .encClassifyMulti => 0x03
  | .decClassify => 0x04
  | .decClassifyMulti => 0x05
  | .txnLearn => 0x09
  | .txnClassify => 0x0A
  | .txnClassifyMulti => 0x0B
  | .learnCommand => 0x60
  | .classifyCommand => 0x40
  | .readDistance => 0x83
  | .readCategory => 0x84
  | .dummy => 0x00

/-- The bytes of an instruction. -/
def encode (i : Instr) : List Byte := [encodeByte i]

/-- A single-sample frame as a parser sees it (R93, R94). -/
inductive WireFrame where
  | learn (vector : List Byte) (category : Byte)
  | classify (vector : List Byte)
  deriving DecidableEq, Repr

/-- The vector of a frame. -/
def WireFrame.vector : WireFrame → List Byte
  | .learn v _ => v
  | .classify v => v

/-- The codec emits only frames with 1 ≤ N ≤ 64 (R6, R134). -/
abbrev WireFrame.WellFormed (f : WireFrame) : Prop := 1 ≤ f.vector.length ∧ f.vector.length ≤ Machine.nMax

/-- Frame kind and N told from the first three bytes; none for a byte sequence the codec did not produce (R107). -/
def frameHead : List Byte → Option (Machine.FrameKind × Nat)
  | cmd :: hi :: lo :: _ =>
    let n := (Machine.unbe16 hi lo).toNat + 1
    if n > Machine.nMax then none
    else if cmd = Machine.commandByte .learn then some (.learn, n)
    else if cmd = Machine.commandByte .classify then some (.classify, n)
    else none
  | _ => none

/-- The length of the frame that starts with these bytes (R107). -/
def frameLength (bytes : List Byte) : Option Nat :=
  (frameHead bytes).map fun (kind, n) => Machine.strideOf kind n

/-- Reads one frame off the front of a byte stream, checking the selectors and the padding, and gives the rest (R107, R108). -/
def decodeFrame (bytes : List Byte) : Option (WireFrame × List Byte) :=
  match frameHead bytes with
  | none => none
  | some (.learn, n) =>
    match (bytes.drop 3).drop n with
    | [] => none
    | c :: rest => some (.learn ((bytes.drop 3).take n) c, rest)
  | some (.classify, n) =>
    let tail := (bytes.drop 3).drop n
    if tail.take 8 = Machine.selectorTail then some (.classify ((bytes.drop 3).take n), tail.drop 8) else none

/-- Reads exactly `count` frames laid end to end, with nothing left over (R97, R107). -/
def decodeFrames : Nat → List Byte → Option (List WireFrame)
  | 0, [] => some []
  | 0, _ :: _ => none
  | count + 1, bytes =>
    match decodeFrame bytes with
    | none => none
    | some (f, rest) => (decodeFrames count rest).map (f :: ·)

/-- The number of samples M = L / S of a byte sequence whose first frame is a CLASSIFY frame (R98, R107). -/
def batchSize (bytes : List Byte) : Option Nat :=
  match frameHead bytes with
  | some (.classify, n) =>
    if bytes.length % Machine.strideOf .classify n = 0 then some (bytes.length / Machine.strideOf .classify n) else none
  | _ => none

/-- The bytes of a frame. -/
def encodeFrame : WireFrame → List Byte
  | .learn v c => Machine.learnFrame v (c.setWidth 16)
  | .classify v => Machine.classifyFrame v

end Sys2Proof
end

