-- ==== Sys2Proof/Machine/State.lean ====
section
/-! DEFINITION. The state of the codec (spec/10_state.md), the inputs from outside it, and the state after reset. -/

namespace Sys2Proof.Machine

/-- The five host address spaces, addressed by offset, without HOST_MAP (R60; log 2). -/
inductive Space where
  | reg
  | vbuf
  | txbuf
  | rxbuf
  | res
  deriving DecidableEq, Repr

/-- STATUS.STATE (R25). -/
inductive OpState where
  /-- No operation since reset. -/
  | idle
  /-- An operation is in progress. -/
  | busy
  /-- The last operation completed without error. -/
  | done
  /-- The last operation ended with the error in STATUS.ERR. -/
  | error
  deriving DecidableEq, Repr

/-- STATUS.ERR; the codes 5 to 15 are never written (R26, R220; log 24). -/
inductive ErrCode where
  | none
  | badOp
  | badN
  | badM
  | transport
  deriving DecidableEq, Repr

/-- What the sequencer latches at issue (R39): OP.CODE, the per-sample kind, M', S' and L. -/
structure Job where
  code    : Byte
  kind    : FrameKind
  samples : Nat
  stride  : Nat
  length  : Nat
  deriving DecidableEq, Repr

/-- The sequencer's major state with the hidden fields that state uses; outside BUSY there are none (R39, R40, R41, U21; log 13). -/
inductive Major where
  /-- No operation is in progress. -/
  | notBusy
  /-- TXBUF is being written; (i, k) is the next slot. -/
  | encode (job : Job) (i k : Nat)
  /-- One transport exchange is outstanding. -/
  | exchange (job : Job)
  /-- RES is being written; i is the next entry. -/
  | decode (job : Job) (i : Nat)
  deriving DecidableEq, Repr

/-- A byte buffer: the bytes written since reset, as (offset, byte) pairs with rising offsets. An offset not listed holds no
written byte, so no listed entry equals what an unlisted offset holds; what the codec reads there is a free value (log 5). -/
abbrev Memory := List Host.Cell

/-- The result file: the entries written since reset, as (index, entry) pairs with rising indexes (R33; log 28). -/
abbrev ResultFile := List (Nat × Result)

/-- One host bus transaction: direction, space, byte offset, width in bits, data (R60, R116; log 27). -/
inductive Access where
  | write (space : Space) (offset width : Nat) (data : Word)
  | read (space : Space) (offset width : Nat)
  deriving DecidableEq, Repr

/-- What the transport returns from an exchange (R190). -/
inductive Answer where
  | ok (rx : List Byte)
  | fail
  deriving DecidableEq, Repr

/-- One call Exchange(L, tx) of the transport (R190). -/
structure ExchangeCall where
  length : Nat
  tx     : List Byte
  deriving DecidableEq, Repr

/-- One thing that happens next: the agents outside the codec, or one step of the sequencer (R75; log 3, log 4). -/
inductive Input where
  /-- A host access. An operation it starts has its ENCODE or DECODE part run at once (the granularity of R142). -/
  | host (access : Access)
  /-- A host access. An operation it starts is left in its first major state, so that later inputs land while it runs. -/
  | hostOverlapped (access : Access)
  /-- One sequencer step (R102, R103). -/
  | tick
  /-- The transport returns from exchange number `call`, counting from 1 (R190; log 10). -/
  | answer (call : Nat) (result : Answer)
  /-- The platform asserts reset (R250). -/
  | reset
  deriving DecidableEq, Repr

/-- The state of the codec and of its surroundings. The first group is the spec's; the second group is the model's own
(log 3, log 8, log 10, log 14, log 20). -/
structure State where
  /-- OP.CODE (R23). -/
  opCode   : Byte
  /-- STATUS.STATE (R25). -/
  stState  : OpState
  /-- STATUS.ERR (R26). -/
  stErr    : ErrCode
  /-- STATUS.OVR (R27). -/
  ovr      : Bool
  /-- N.VALUE (R28). -/
  n        : Byte
  /-- M.VALUE (R29). -/
  m        : Half
  /-- CAT.VALUE (R30). -/
  cat      : Half
  /-- LEN.VALUE (R31). -/
  len      : Word
  /-- CAPS[15:0], the parameter M_MAX (R7, R32; log 1). -/
  mMax     : Half
  /-- VBUF (R34). -/
  vbuf     : Memory
  /-- TXBUF (R35). -/
  txbuf    : Memory
  /-- RXBUF (R36). -/
  rxbuf    : Memory
  /-- RES (R33). -/
  res      : ResultFile
  /-- The sequencer (R39, R40, R41). -/
  major    : Major
  /-- What happens next, first first. -/
  inputs   : List Input
  /-- The Exchange calls made so far, oldest first (R190). -/
  calls    : List ExchangeCall
  /-- The word the last host read returned. -/
  readData : Word
  /-- How many free values the run has drawn. -/
  draws    : Nat
  /-- How many resets there were. -/
  epoch    : Nat
  deriving DecidableEq, Repr

/-- A step never stops the machine with a fault: no access raises one (R74) and an error of an operation is a value of STATUS
(R221, R228). -/
inductive Fault where
  deriving DecidableEq, Repr

/-- Why an instruction has no meaning in a state. -/
inductive Refusal where
  /-- Raised by exec for an instruction that has no meaning yet. Safe: nothing is claimed of it. -/
  | notModelled (mnemonic : String)
  /-- Raised by the meaning of a wire byte in a state whose sequencer is at no slot of that byte: the codec emits it nowhere else
  (R108, U17). Safe: nothing is claimed, and no step of the machine raises it. -/
  | noSlotForWireByte
  deriving DecidableEq, Repr

/-- The machine right after reset (R22, R250, R251). The model's own fields start empty or at 0 (DESIGN CHOICE, log 20), and
M_MAX is any number the spec allows (log 1). -/
def State.reset : State where
  opCode   := 0
  stState  := .idle
  stErr    := .none
  ovr      := false
  n        := 0
  m        := 0
  cat      := 0
  len      := 0
  mMax     := Config.mMax
  vbuf     := []
  txbuf    := []
  rxbuf    := []
  res      := []
  major    := .notBusy
  inputs   := []
  calls    := []
  readData := 0
  draws    := 0
  epoch    := 0

end Sys2Proof.Machine
end

