-- ==== Sys2Proof/Machine/Memory.lean ====
section
/-! DEFINITION. The named operations over buffers and the result file: lists of (key, value) pairs with rising keys. -/

namespace Sys2Proof.Machine

/-- The canonical form: keys strictly rising. -/
abbrev CellsSorted {α : Type} (m : List (Nat × α)) : Prop := m.Pairwise fun x y => x.1 < y.1

/-- The canonical form of a byte buffer (log 5). -/
abbrev Memory.wf (m : Memory) : Prop := CellsSorted m

/-- The canonical form of the result file (log 28). -/
abbrev ResultFile.wf (m : ResultFile) : Prop := CellsSorted m

/-- Every listed key is below a bound. -/
abbrev CellsBelow {α : Type} (bound : Nat) (m : List (Nat × α)) : Prop := ∀ x ∈ m, x.1 < bound

/-- The value written at a key, none where nothing was written. -/
def lookupCell {α : Type} : List (Nat × α) → Nat → Option α
  | [], _ => none
  | (b, w) :: rest, a => if a = b then some w else lookupCell rest a

/-- Writes a value at a key, keeping the keys rising. -/
def writeCell {α : Type} : List (Nat × α) → Nat → α → List (Nat × α)
  | [], a, v => [(a, v)]
  | (b, w) :: rest, a, v =>
    if a < b then (a, v) :: (b, w) :: rest
    else if a = b then (a, v) :: rest
    else (b, w) :: writeCell rest a v

/-- Writes a sequence of values at consecutive keys from `a` on, lowest key first. -/
def writeCells {α : Type} (m : List (Nat × α)) (a : Nat) : List α → List (Nat × α)
  | [] => m
  | v :: vs => writeCells (writeCell m a v) (a + 1) vs

/-- MemRead(VBUF, off, 1); a byte nothing has written is a free value (R34, U7; log 5). -/
def readVbuf (s : State) (off : Nat) : Byte := (lookupCell s.vbuf off).getD (Config.unwrittenVbuf s.epoch off)

/-- MemRead(TXBUF, off, 1) (R35, U7; log 5). -/
def readTxbuf (s : State) (off : Nat) : Byte := (lookupCell s.txbuf off).getD (Config.unwrittenTxbuf s.epoch off)

/-- MemRead(RXBUF, off, 1) (R36, U7; log 5). -/
def readRxbuf (s : State) (off : Nat) : Byte := (lookupCell s.rxbuf off).getD (Config.unwrittenRxbuf s.epoch off)

/-- RES[i] (R33, U7; log 5). -/
def readRes (s : State) (i : Nat) : Result := (lookupCell s.res i).getD (wordResult (Config.unwrittenRes s.epoch i))

/-- Writes bytes to TXBUF from offset `off` on. -/
def writeTxbuf (off : Nat) (bytes : List Byte) (s : State) : State := { s with txbuf := writeCells s.txbuf off bytes }

/-- Writes bytes to RXBUF from offset `off` on. -/
def writeRxbuf (off : Nat) (bytes : List Byte) (s : State) : State := { s with rxbuf := writeCells s.rxbuf off bytes }

/-- Writes one byte of VBUF. -/
def writeVbuf (off : Nat) (byte : Byte) (s : State) : State := { s with vbuf := writeCell s.vbuf off byte }

/-- Writes RES entries from index `i` on. -/
def writeRes (i : Nat) (entries : List Result) (s : State) : State := { s with res := writeCells s.res i entries }

/-- VBUF_SIZE (R8). -/
def vbufSize (s : State) : Nat := s.mMax.toNat * nMax

/-- FRAME_MAX, the size of TXBUF and of RXBUF (R8). -/
def frameMax (s : State) : Nat := s.mMax.toNat * strideOf .classify nMax

/-- RES_SIZE, in entries (R8). -/
def resSize (s : State) : Nat := s.mMax.toNat

/-- TXBUF[0, length), what the transport is handed (R64, R190). -/
def txBytes (s : State) (length : Nat) : List Byte := (List.range length).map (readTxbuf s)

end Sys2Proof.Machine
end

