-- ==== Sys2Proof/Machine/Flags.lean ====
section
/-! DEFINITION. The STATUS register: its fields' codes, the word a read returns, and the sticky OVR flag (R24 to R27). -/

namespace Sys2Proof.Machine

/-- The code of STATUS.STATE (R25). -/
def OpState.code : OpState → BitVec 2
  | .idle => 0
  | .busy => 1
  | .done => 2
  | .error => 3

/-- The code of STATUS.ERR (R220). -/
def ErrCode.code : ErrCode → BitVec 4
  | .none => 0
  | .badOp => 1
  | .badN => 2
  | .badM => 3
  | .transport => 4

/-- The STATUS word: OVR in bit 8, ERR in [7:4], STATE in [1:0], every other bit 0 (R24). -/
def statusWord (s : State) : Word := (0 : BitVec 23) ++ BitVec.ofBool s.ovr ++ s.stErr.code ++ (0 : BitVec 2) ++ s.stState.code

/-- The CAPS word: N_MAX in [23:16], M_MAX in [15:0], [31:24] = 0 (R32). -/
def capsWord (s : State) : Word := (0 : BitVec 8) ++ BitVec.ofNat 8 nMax ++ s.mMax

/-- A host write that is ignored because an operation is in progress sets OVR (R27, R67). -/
def overrun (s : State) : State := { s with ovr := true }

/-- A 32-bit write to STATUS: a 1 in bit 8 clears OVR, nothing else can be written (R24, R27). -/
def writeStatus (data : Word) (s : State) : State :=
  if data.getLsbD 8 then { s with ovr := false } else s

end Sys2Proof.Machine
end

