-- ==== Sys2Proof/Machine/Operands.lean ====
section
/-! DEFINITION. What an operation reads at issue (R113, R131): the fields of its op code, N and M with their checks, the vectors
in VBUF, the frames and results they give. -/

namespace Sys2Proof.Machine

/-- CODE[3] = 1 exactly for the TXN operations (R111). -/
def codeHasExchange (code : Byte) : Bool := code.getLsbD 3

/-- CODE[2:0], which names the function (R111). -/
def codeFunction (code : Byte) : Nat := (code.extractLsb' 0 3).toNat

/-- The MULTI operations: CLASSIFY_MULTI encode and decode (R111, R133). -/
def codeIsMulti (code : Byte) : Bool := codeFunction code == 3 || codeFunction code == 5

/-- The operations that only decode (R110, R111). -/
def codeIsDecode (code : Byte) : Bool := codeFunction code == 4 || codeFunction code == 5

/-- The per-sample kind of an operation (R133). -/
def codeKind (code : Byte) : FrameKind := if codeFunction code = 1 then .learn else .classify

/-- N.VALUE as an unsigned number (R113). -/
abbrev vectorLength (s : State) : Nat := s.n.toNat

/-- M.VALUE as an unsigned number (R113). -/
abbrev sampleCount (s : State) : Nat := s.m.toNat

/-- What issue latches for an op code that passed its checks (R39, R133, R137). -/
def jobOf (code : Byte) (s : State) : Job :=
  let samples := if codeIsMulti code then sampleCount s else 1
  let stride := strideOf (codeKind code) (vectorLength s)
  { code := code, kind := codeKind code, samples := samples, stride := stride, length := samples * stride }

/-- The issue check: BAD_OP, then BAD_N, then BAD_M, the first that applies (R137, R226). -/
def issueCheck (code : Byte) (s : State) : Except ErrCode Job :=
  match decodeByte .hostOp code with
  | .error _ => .error .badOp
  | .ok _ =>
    if vectorLength s < 1 ∨ vectorLength s > nMax then .error .badN
    else if codeIsMulti code = true ∧ (sampleCount s = 0 ∨ sampleCount s > s.mMax.toNat) then .error .badM
    else .ok (jobOf code s)

/-- Element j of sample i, at VBUF offset i·N + j (R34, R65). -/
def vectorElement (s : State) (i j : Nat) : Byte := readVbuf s (i * vectorLength s + j)

/-- v_i, the vector of sample i (R34). -/
def sampleVector (s : State) (i : Nat) : List Byte := (List.range (vectorLength s)).map (vectorElement s i)

/-- The vectors of the first `count` samples (R170). -/
def sampleVectors (s : State) (count : Nat) : List (List Byte) := (List.range count).map (sampleVector s)

/-- The byte of slot k of sample i of the frame being built (R100, R102). -/
def slotByte (kind : FrameKind) (s : State) (i k : Nat) : Option Byte :=
  frameByte kind (vectorLength s) s.cat (vectorElement s i) k

/-- The result of sample i, from the four response bytes at the job's stride (R99, R103). -/
def sampleResult (job : Job) (s : State) (i : Nat) : Result :=
  decodeClassify (readRxbuf s) (i * job.stride) (vectorLength s)

end Sys2Proof.Machine
end

