-- ==== Sys2Proof/Machine/Ops.lean ====
section
/-! DEFINITION. The shared operations of the sequencer: issue, raising an error, completion, entering the exchange, one encode
step, one decode step, and reset (spec/40_issue.md, R102, R103, R221, R250). -/

namespace Sys2Proof.Machine

/-- The first effect of an accepted OP write: OP.CODE stored, ERR cleared, STATE = BUSY (R130). -/
def issued (code : Byte) (s : State) : State :=
  { s with opCode := code, stErr := .none, stState := .busy }

/-- raise Error(e): the one way an operation ends in error. It saves nothing but STATUS.ERR and transfers control nowhere; a
later issue or a reset takes the machine out of it (R221, R228, R229). -/
def raiseError (e : ErrCode) (s : State) : State :=
  { s with stErr := e, stState := .error, major := .notBusy }

/-- complete(): LEN, STATUS and the major state of an operation that ended without error (R138). -/
def complete (job : Job) (s : State) : State :=
  { s with len := BitVec.ofNat 32 job.length, stErr := .none, stState := .done, major := .notBusy }

/-- Enters EXCHANGE with the one call Exchange(L, TXBUF[0, L)) (R190, R194). -/
def enterExchange (job : Job) (s : State) : State :=
  { s with major := .exchange job, calls := s.calls ++ [{ length := job.length, tx := txBytes s job.length }] }

/-- A host write to OP: ignored with OVR set while BUSY, else issue, the checks, and `body` for an operation that passed them
(R67, R130, R137; log 25). -/
def startOperation (code : Byte) (body : Job → State → State) (s : State) : State :=
  if s.stState = .busy then overrun s
  else
    match issueCheck code s with
    | .error e => raiseError e (issued code s)
    | .ok job => body job (issued code s)

/-- The first major state of an operation that passed its checks (R137). -/
def enterFirstMajor (job : Job) (s : State) : State :=
  if codeIsDecode job.code then { s with major := .decode job 0 } else { s with major := .encode job 0 0 }

/-- Issue alone: the operation is left at the start of its first major state (R137). -/
def issue (code : Byte) (s : State) : State := startOperation code enterFirstMajor s

/-- What follows ENCODE: the exchange for a TXN operation, completion for any other (R40, R102). -/
def finishEncode (job : Job) (s : State) : State :=
  if codeHasExchange job.code then enterExchange job s else complete job s

/-- The advance of the slot counter after a slot was written (R41, R102). -/
def advanceSlot (job : Job) (i k : Nat) (s : State) : State :=
  if k + 1 < job.stride then { s with major := .encode job i (k + 1) }
  else if i + 1 < job.samples then { s with major := .encode job (i + 1) 0 }
  else finishEncode job s

/-- Writes the byte of slot (i, k) at TXBUF offset i·S' + k and advances (R65, R102). -/
def emitByte (b : Byte) (job : Job) (i k : Nat) (s : State) : State :=
  advanceSlot job i k (writeTxbuf (i * job.stride + k) [b] s)

/-- One encode step (R102). A slot the frame does not have writes nothing (log 26). -/
def encodeStep (job : Job) (i k : Nat) (s : State) : State :=
  match slotByte job.kind s i k with
  | some b => emitByte b job i k s
  | none => advanceSlot job i k s

/-- One decode step: RES[i] from its four response bytes, then the next sample or completion (R103). -/
def decodeStep (job : Job) (i : Nat) (s : State) : State :=
  let s' := writeRes i [sampleResult job s i] s
  if i + 1 < job.samples then { s' with major := .decode job (i + 1) } else complete job s'

/-- What follows a successful exchange: completion for LEARN, DECODE for the other kinds (R40, R196). -/
def finishExchange (job : Job) (s : State) : State :=
  match job.kind with
  | .learn => complete job s
  | .classify => { s with major := .decode job 0 }

/-- The L bytes received: rx[k] in slot k; a byte the answer does not bring is a free value (R191, R201; log 9). -/
def receivedBytes (length : Nat) (rx : List Byte) (draw : Nat) : List Byte :=
  (List.range length).map fun k => rx.getD k (Config.missingRx draw k)

/-- What RXBUF[0, L) holds after a failed exchange: free values, drawn once (R195, U8; log 7). -/
def failedBytes (length draw : Nat) : List Byte := (List.range length).map (Config.failedRx draw)

/-- Exchange returned Ok(rx) (R201, R196 to R198). -/
def receiveOk (job : Job) (rx : List Byte) (s : State) : State :=
  finishExchange job { writeRxbuf 0 (receivedBytes job.length rx s.draws) s with draws := s.draws + 1 }

/-- Exchange returned Fail: LEN = L, RXBUF[0, L) unspecified, RES not written, error TRANSPORT (R195). -/
def receiveFail (job : Job) (s : State) : State :=
  raiseError .transport
    { writeRxbuf 0 (failedBytes job.length s.draws) s with draws := s.draws + 1, len := BitVec.ofNat 32 job.length }

/-- The transport returns from exchange number `call`. An answer to any exchange but the outstanding one is dropped: after a
reset a late result is never written (R190, R252; log 10). -/
def receiveAnswer (call : Nat) (result : Answer) (s : State) : State :=
  match s.major with
  | .exchange job =>
    if call = s.calls.length then
      match result with
      | .ok rx => receiveOk job rx s
      | .fail => receiveFail job s
    else s
  | .notBusy => s
  | .encode _ _ _ => s
  | .decode _ _ => s

/-- The reset input: every register at its reset value, the sequencer NOT_BUSY, the buffers unspecified anew. M_MAX and what
lies outside the codec stay (R250, R251, R252; log 6, log 19). -/
def resetMachine (s : State) : State :=
  { State.reset with
    mMax := s.mMax
    inputs := s.inputs
    calls := s.calls
    readData := s.readData
    draws := s.draws
    epoch := s.epoch + 1 }

end Sys2Proof.Machine
end

