-- ==== Sys2Proof/Machine/BatchComposer.lean ====
section
/-! DEFINITION. The BatchComposer operations ENC_CLASSIFY_MULTI and DEC_CLASSIFY_MULTI, each as one atomic step, the granularity
R142 allows (spec/42_batchcomposer.md). -/

namespace Sys2Proof.Machine

/-- TXBUF[0, L) ← multi_frame of the first M vectors (R170, R172). -/
def writeMultiFrame (s : State) : State := writeTxbuf 0 (multiFrame (sampleVectors s (sampleCount s))) s

/-- RES[0, M) ← decode_multi(RXBUF, M, N) (R173, R175). -/
def writeMultiResults (s : State) : State := writeRes 0 (decodeMulti (readRxbuf s) (sampleCount s) (vectorLength s)) s

/-- ENC_CLASSIFY_MULTI (R172). -/
def execEncClassifyMulti (s : State) : Host.Outcome State Fault Refusal :=
  .next (startOperation 0x03 (fun job t => complete job (writeMultiFrame t)) s)

/-- DEC_CLASSIFY_MULTI (R175). -/
def execDecClassifyMulti (s : State) : Host.Outcome State Fault Refusal :=
  .next (startOperation 0x05 (fun job t => complete job (writeMultiResults t)) s)

end Sys2Proof.Machine
end

