-- ==== Sys2Proof/Machine/FrameCodec.lean ====
section
/-! DEFINITION. The FrameCodec operations ENC_LEARN, ENC_CLASSIFY and DEC_CLASSIFY, each as one atomic step, the granularity
R142 allows (spec/41_framecodec.md). -/

namespace Sys2Proof.Machine

/-- TXBUF[0, L) ← learn_frame(v, CAT) (R150, R152). -/
def writeLearnFrame (s : State) : State := writeTxbuf 0 (learnFrame (sampleVector s 0) s.cat) s

/-- TXBUF[0, L) ← classify_frame(v) (R153, R155). -/
def writeClassifyFrame (s : State) : State := writeTxbuf 0 (classifyFrame (sampleVector s 0)) s

/-- RES[0] ← decode_classify(RXBUF, 0, N) (R156, R158). -/
def writeClassifyResult (s : State) : State := writeRes 0 [decodeClassify (readRxbuf s) 0 (vectorLength s)] s

/-- ENC_LEARN (R152). -/
def execEncLearn (s : State) : Host.Outcome State Fault Refusal :=
  .next (startOperation 0x01 (fun job t => complete job (writeLearnFrame t)) s)

/-- ENC_CLASSIFY (R155). -/
def execEncClassify (s : State) : Host.Outcome State Fault Refusal :=
  .next (startOperation 0x02 (fun job t => complete job (writeClassifyFrame t)) s)

/-- DEC_CLASSIFY (R158). -/
def execDecClassify (s : State) : Host.Outcome State Fault Refusal :=
  .next (startOperation 0x04 (fun job t => complete job (writeClassifyResult t)) s)

end Sys2Proof.Machine
end

