-- ==== Sys2Proof/Machine/Transactions.lean ====
section
/-! DEFINITION. The transaction operations TXN_LEARN, TXN_CLASSIFY and TXN_CLASSIFY_MULTI: the checks, the frame and the one
Exchange call. The exchange stays a step of its own (R142): its return is `receiveAnswer`, and the DECODE part after it is the
sequencer's (spec/43_transactions.md). -/

namespace Sys2Proof.Machine

/-- TXN_LEARN up to its exchange (R196). -/
def execTxnLearn (s : State) : Host.Outcome State Fault Refusal :=
  .next (startOperation 0x09 (fun job t => enterExchange job (writeLearnFrame t)) s)

/-- TXN_CLASSIFY up to its exchange (R197). -/
def execTxnClassify (s : State) : Host.Outcome State Fault Refusal :=
  .next (startOperation 0x0A (fun job t => enterExchange job (writeClassifyFrame t)) s)

/-- TXN_CLASSIFY_MULTI up to its exchange (R198). -/
def execTxnClassifyMulti (s : State) : Host.Outcome State Fault Refusal :=
  .next (startOperation 0x0B (fun job t => enterExchange job (writeMultiFrame t)) s)

end Sys2Proof.Machine
end

