-- ==== Sys2Proof/Machine/WireBytes.lean ====
section
/-! DEFINITION. The wire bytes of the opcode table: the encode steps at the slots whose byte is a constant of the protocol (R91,
R100, R102; log 11). -/

namespace Sys2Proof.Machine

/-- The wire constant a phase sends, none for a length, vector or category slot (R91, R101). -/
def phaseConstant (kind : FrameKind) : Phase → Option Instr
  | .cmd =>
    match kind with
    | .learn => some .learnCommand
    | .classify => some .classifyCommand
  | .lenHi => none
  | .lenLo => none
  | .vec _ => none
  | .cat => none
  | .selDist => some .readDistance
  | .padDist _ => some .dummy
  | .selCat => some .readCategory
  | .padCat _ => some .dummy

/-- The wire constant at slot k of a frame of this kind and length (R93, R94, R101). -/
def slotConstant (kind : FrameKind) (n k : Nat) : Option Instr := (phaseOf kind n k).bind (phaseConstant kind)

/-- Emits a wire constant at the sequencer's slot: the encode step of R102 there, refused where the slot is not the constant's
(R108, U17; log 11). -/
def emitConstant (wire : Instr) (b : Byte) (s : State) : Host.Outcome State Fault Refusal :=
  match s.major with
  | .encode job i k =>
    if slotConstant job.kind (vectorLength s) k = some wire then .next (emitByte b job i k s)
    else .refused .noSlotForWireByte
  | .notBusy => .refused .noSlotForWireByte
  | .exchange _ => .refused .noSlotForWireByte
  | .decode _ _ => .refused .noSlotForWireByte

/-- LEARN_COMMAND: byte 0 of a LEARN frame (R93). -/
def execLearnCommand (s : State) : Host.Outcome State Fault Refusal := emitConstant .learnCommand 0x60 s

/-- CLASSIFY_COMMAND: byte 0 of a CLASSIFY frame, of every sample of a batch (R94, R97). -/
def execClassifyCommand (s : State) : Host.Outcome State Fault Refusal := emitConstant .classifyCommand 0x40 s

/-- READ_DISTANCE: byte N+3 of a CLASSIFY frame (R94). -/
def execReadDistance (s : State) : Host.Outcome State Fault Refusal := emitConstant .readDistance 0x83 s

/-- READ_CATEGORY: byte N+7 of a CLASSIFY frame (R94). -/
def execReadCategory (s : State) : Host.Outcome State Fault Refusal := emitConstant .readCategory 0x84 s

/-- DUMMY: the padding slots of a CLASSIFY frame (R94, R154). -/
def execDummy (s : State) : Host.Outcome State Fault Refusal := emitConstant .dummy 0x00 s

end Sys2Proof.Machine
end

