-- ==== Sys2Proof/Machine/Dispatch.lean ====
section
/-! DEFINITION. One arm per row of the opcode table. -/

namespace Sys2Proof.Machine

/-- The meaning of an instruction. -/
def exec (i : Instr) (s : State) : Host.Outcome State Fault Refusal :=
  match i with
  | .encLearn => Sys2Proof.Machine.execEncLearn s
  | .encClassify => Sys2Proof.Machine.execEncClassify s
  | .encClassifyMulti => Sys2Proof.Machine.execEncClassifyMulti s
  | .decClassify => Sys2Proof.Machine.execDecClassify s
  | .decClassifyMulti => Sys2Proof.Machine.execDecClassifyMulti s
  | .txnLearn => Sys2Proof.Machine.execTxnLearn s
  | .txnClassify => Sys2Proof.Machine.execTxnClassify s
  | .txnClassifyMulti => Sys2Proof.Machine.execTxnClassifyMulti s
  | .learnCommand => Sys2Proof.Machine.execLearnCommand s
  | .classifyCommand => Sys2Proof.Machine.execClassifyCommand s
  | .readDistance => Sys2Proof.Machine.execReadDistance s
  | .readCategory => Sys2Proof.Machine.execReadCategory s
  | .dummy => Sys2Proof.Machine.execDummy s

end Sys2Proof.Machine
end

