-- ==== Sys2Proof/Machine/HostBus.lean ====
section
/-! DEFINITION. The host interface: reads and writes of the five spaces, while BUSY and while not (spec/20_memory.md, R22 to R36). -/

namespace Sys2Proof.Machine

/-- A host write to OP, the operation's ENCODE or DECODE run at once: an assigned code runs its instruction, a reserved code ends
in BAD_OP (R23, R130, R222). -/
def writeOp (data : Word) (s : State) : Host.Outcome State Fault Refusal :=
  match decodeOpWord data with
  | .ok i => exec i s
  | .error _ => .next (issue (opCodeOf data) s)

/-- A host write to OP that leaves the operation at the start of its first major state (R137; log 4). -/
def writeOpOverlapped (data : Word) (s : State) : Host.Outcome State Fault Refusal :=
  .next (issue (opCodeOf data) s)

/-- A 32-bit write to an aligned offset of REG other than STATUS, while not BUSY; `op` handles a write to OP (R22, R28 to R32, R61). -/
def writeRegister (op : Word → State → Host.Outcome State Fault Refusal) (off : Nat) (data : Word) (s : State) :
    Host.Outcome State Fault Refusal :=
  if off = 0x00 then op data s
  else if off = 0x08 then .next { s with n := data.extractLsb' 0 8 }
  else if off = 0x0C then .next { s with m := data.extractLsb' 0 16 }
  else if off = 0x10 then .next { s with cat := data.extractLsb' 0 16 }
  else .next s

/-- A host write while not BUSY, other than a 32-bit write to STATUS (R60 to R63). -/
def writeIdle (op : Word → State → Host.Outcome State Fault Refusal) (sp : Space) (off width : Nat) (data : Word) (s : State) :
    Host.Outcome State Fault Refusal :=
  match sp with
  | .reg => if width = 32 then writeRegister op off data s else .next s
  | .vbuf => if width = 8 ∧ off < vbufSize s then .next (writeVbuf off (data.extractLsb' 0 8) s) else .next s
  | .rxbuf => if width = 8 ∧ off < frameMax s then .next (writeRxbuf off [data.extractLsb' 0 8] s) else .next s
  | .txbuf => .next s
  | .res => .next s

/-- A host write. A 32-bit write to STATUS is accepted in every STATE; while BUSY any other write is ignored and sets OVR (R27, R67; log 15, log 25). -/
def hostWrite (op : Word → State → Host.Outcome State Fault Refusal) (sp : Space) (off width : Nat) (data : Word) (s : State) :
    Host.Outcome State Fault Refusal :=
  if sp = .reg ∧ width = 32 ∧ off = 0x04 then .next (writeStatus data s)
  else if s.stState = .busy then .next (overrun s)
  else writeIdle op sp off width data s

/-- What a 32-bit read of REG returns, LEN as it stands while not BUSY; unassigned and misaligned offsets read 0 (R22, R61; DEDUCED beyond 0xFC, log 15). -/
def registerWord (off : Nat) (s : State) : Word :=
  if off = 0x00 then s.opCode.setWidth 32
  else if off = 0x04 then statusWord s
  else if off = 0x08 then s.n.setWidth 32
  else if off = 0x0C then s.m.setWidth 32
  else if off = 0x10 then s.cat.setWidth 32
  else if off = 0x14 then s.len
  else if off = 0x18 then capsWord s
  else 0

/-- Whether a read reaches LEN, a buffer byte or a RES entry, whose value R67 leaves unspecified while BUSY (R61 to R63; log 16). -/
def readsGuarded (sp : Space) (off width : Nat) (s : State) : Bool :=
  match sp with
  | .reg => width == 32 && off == 0x14
  | .vbuf => width == 8 && decide (off < vbufSize s)
  | .txbuf => width == 8 && decide (off < frameMax s)
  | .rxbuf => width == 8 && decide (off < frameMax s)
  | .res => width == 32 && off % 4 == 0 && decide (off / 4 < resSize s)

/-- What a read returns while not BUSY; an ignored read returns 0 (R61, R62, R63). -/
def readWord (sp : Space) (off width : Nat) (s : State) : Word :=
  match sp with
  | .reg => if width = 32 then registerWord off s else 0
  | .vbuf => if width = 8 ∧ off < vbufSize s then (readVbuf s off).setWidth 32 else 0
  | .txbuf => if width = 8 ∧ off < frameMax s then (readTxbuf s off).setWidth 32 else 0
  | .rxbuf => if width = 8 ∧ off < frameMax s then (readRxbuf s off).setWidth 32 else 0
  | .res => if width = 32 ∧ off % 4 = 0 ∧ off / 4 < resSize s then resultWord (readRes s (off / 4)) else 0

/-- The width in bits of what a guarded read returns: a buffer byte, or a 32-bit word (R60). -/
def busyReadWord (sp : Space) (draw : Nat) : Word :=
  match sp with
  | .reg => Config.busyRead draw
  | .res => Config.busyRead draw
  | .vbuf => ((Config.busyRead draw).extractLsb' 0 8).setWidth 32
  | .txbuf => ((Config.busyRead draw).extractLsb' 0 8).setWidth 32
  | .rxbuf => ((Config.busyRead draw).extractLsb' 0 8).setWidth 32

/-- A host read. It changes nothing in the codec (R67, R73); a value R67 leaves unspecified is drawn at each read (U9; log 8). -/
def hostRead (sp : Space) (off width : Nat) (s : State) : State :=
  if s.stState = .busy ∧ readsGuarded sp off width s = true then
    { s with readData := busyReadWord sp s.draws, draws := s.draws + 1 }
  else { s with readData := readWord sp off width s }

/-- One host access (R60, R75). -/
def hostAccess (op : Word → State → Host.Outcome State Fault Refusal) (access : Access) (s : State) :
    Host.Outcome State Fault Refusal :=
  match access with
  | .write sp off width data => hostWrite op sp off width data s
  | .read sp off width => .next (hostRead sp off width s)

end Sys2Proof.Machine
end

