-- ==== Sys2Proof/Machine/Sequencer.lean ====
section
/-! DEFINITION. One step of the sequencer, and the taking of one input (R40, R75, R102, R103). -/

namespace Sys2Proof.Machine

/-- One step of the sequencer. In ENCODE a slot that carries a wire constant runs that wire byte; NOT_BUSY and EXCHANGE wait
(R102, R103, R193, R237). -/
def sequencerStep (s : State) : Host.Outcome State Fault Refusal :=
  match s.major with
  | .notBusy => .next s
  | .exchange _ => .next s
  | .encode job i k =>
    match slotConstant job.kind (vectorLength s) k with
    | some wire => exec wire s
    | none => .next (encodeStep job i k s)
  | .decode job i => .next (decodeStep job i s)

/-- Takes one input (R75; log 3, log 4). -/
def takeInput (x : Input) (s : State) : Host.Outcome State Fault Refusal :=
  match x with
  | .host access => hostAccess writeOp access s
  | .hostOverlapped access => hostAccess writeOpOverlapped access s
  | .tick => sequencerStep s
  | .answer call result => .next (receiveAnswer call result s)
  | .reset => .next (resetMachine s)

/-- The slot, the kind and the op code under which a wire byte is the next byte to emit (R93, R94, R101; log 21). -/
def placeWire (wire : Instr) (s : State) : State :=
  let s' := if 1 ≤ vectorLength s ∧ vectorLength s ≤ nMax then s else { s with n := 1 }
  let code : Byte := if wire = .learnCommand then 0x01 else 0x02
  let k := match wire with
    | .readDistance => vectorLength s' + 3
    | .dummy => vectorLength s' + 4
    | .readCategory => vectorLength s' + 7
    | .learnCommand => 0
    | .classifyCommand => 0
    | .encLearn => 0
    | .encClassify => 0
    | .encClassifyMulti => 0
    | .decClassify => 0
    | .decClassifyMulti => 0
    | .txnLearn => 0
    | .txnClassify => 0
    | .txnClassifyMulti => 0
  { issued code s' with major := .encode (jobOf code s') 0 k, inputs := .tick :: s.inputs }

/-- Puts a table word where the next step takes its instruction: a wire byte at its slot of a frame being encoded, any other byte
as the host's next write to OP (log 21). -/
def placeWord (nbits w : Nat) (s : State) : State :=
  match decodeTableWord nbits w with
  | some i =>
    match i.format with
    | .wireByte => placeWire i s
    | .hostOp => { s with inputs := .host (.write .reg 0x00 32 (BitVec.ofNat 32 w)) :: s.inputs }
  | none => { s with inputs := .host (.write .reg 0x00 32 (BitVec.ofNat 32 w)) :: s.inputs }

end Sys2Proof.Machine
end

