-- ==== Sys2Proof/Machine/Step.lean ====
section
/-! DEFINITION. The step: the next input if there is one, else one step of the sequencer, which runs alone (log 3). -/

namespace Sys2Proof.Machine

/-- One step of the machine. -/
def step (s : State) : Host.Outcome State Fault Refusal :=
  match s.inputs with
  | [] => sequencerStep s
  | x :: rest => takeInput x { s with inputs := rest }

/-- `s` with a table word placed so that the very next step runs its instruction (log 3, log 21). -/
def State.withFetchWord (s : State) (nbits w : Nat) : State := placeWord nbits w s

end Sys2Proof.Machine
end

