-- ==== Sys2Proof/Machine/HostProgram.lean ====
section
/-! DEFINITION. Host programs: the statements of R114, the pseudo-instructions of R115 and the encoding of a statement as a bus
transaction of R116 (log 17). -/

namespace Sys2Proof.Machine

/-- The registers a statement names (R114). -/
inductive RegName where
  | op
  | status
  | n
  | m
  | cat
  | len
  | caps
  deriving DecidableEq, Repr

/-- A statement (R114). -/
inductive Stmt where
  /-- `WR reg, imm32`. -/
  | wr (reg : RegName) (data : Word)
  /-- `RD reg`. -/
  | rd (reg : RegName)
  /-- `WRB bsp[off], imm8`. -/
  | wrb (space : Space) (off : Nat) (data : Byte)
  /-- `RDB bsp[off]`. -/
  | rdb (space : Space) (off : Nat)
  /-- `RDR RES[idx]`. -/
  | rdr (idx : Nat)
  /-- `name:`, a label. -/
  | label (name : String)
  /-- `BUSY? label`, a branch of the host. -/
  | busyBranch (target : String)
  deriving DecidableEq, Repr

/-- A pseudo-instruction; WAIT and RUN take the fresh label they use (R115). -/
inductive Pseudo where
  | issueOp (op : Instr)
  | wait (fresh : String)
  | run (op : Instr) (fresh : String)
  | setup (n m c : Word)
  | loadv (off : Nat) (bytes : List Byte)
  | loadrx (off : Nat) (bytes : List Byte)
  | clrovr
  deriving DecidableEq, Repr

/-- off(r), the byte offset of a register in REG (R22, R116). -/
def RegName.offset : RegName → Nat
  | .op => 0x00
  | .status => 0x04
  | .n => 0x08
  | .m => 0x0C
  | .cat => 0x10
  | .len => 0x14
  | .caps => 0x18

/-- WRB names VBUF or RXBUF; RDB names VBUF, TXBUF or RXBUF (R114). -/
abbrev Stmt.WellFormed : Stmt → Prop
  | .wrb sp _ _ => sp = .vbuf ∨ sp = .rxbuf
  | .rdb sp _ => sp = .vbuf ∨ sp = .txbuf ∨ sp = .rxbuf
  | .wr _ _ => True
  | .rd _ => True
  | .rdr _ => True
  | .label _ => True
  | .busyBranch _ => True

/-- ISSUE and RUN take an operation of R110, not a wire byte (R115). -/
abbrev Pseudo.WellFormed : Pseudo → Prop
  | .issueOp op => op.WellFormedIn .hostOp
  | .run op _ => op.WellFormedIn .hostOp
  | .wait _ => True
  | .setup _ _ _ => True
  | .loadv _ _ => True
  | .loadrx _ _ => True
  | .clrovr => True

/-- The write that ISSUE stands for (R115). -/
def issueStmt (op : Instr) : Stmt := .wr .op ((encodeByte op).setWidth 32)

/-- The polling loop that WAIT stands for (R115). -/
def waitStmts (fresh : String) : List Stmt := [.label fresh, .rd .status, .busyBranch fresh]

/-- Byte writes to consecutive offsets of a buffer, as LOADV and LOADRX stand for (R115). -/
def loadStmts (sp : Space) (off : Nat) : List Byte → List Stmt
  | [] => []
  | b :: bs => .wrb sp off b :: loadStmts sp (off + 1) bs

/-- The expansion of a pseudo-instruction (R115). -/
def Pseudo.expand : Pseudo → List Stmt
  | .issueOp op => [issueStmt op]
  | .wait fresh => waitStmts fresh
  | .run op fresh => issueStmt op :: waitStmts fresh
  | .setup n m c => [.wr .n n, .wr .m m, .wr .cat c]
  | .loadv off bytes => loadStmts .vbuf off bytes
  | .loadrx off bytes => loadStmts .rxbuf off bytes
  | .clrovr => [.wr .status 0x100]

/-- The bus transaction of a statement; a label and BUSY? are none (R116). -/
def Stmt.transaction : Stmt → Option Access
  | .wr r x => some (.write .reg r.offset 32 x)
  | .rd r => some (.read .reg r.offset 32)
  | .wrb sp off b => some (.write sp off 8 (b.setWidth 32))
  | .rdb sp off => some (.read sp off 8)
  | .rdr idx => some (.read .res (4 * idx) 32)
  | .label _ => none
  | .busyBranch _ => none

/-- The inputs of a straight run through statements: the host's accesses in program order (R75, R116). -/
def programInputs (prog : List Stmt) : List Input := (prog.filterMap Stmt.transaction).map .host

/-- The byte the host writes for a signed vector element e: e mod 256 (R105, G1; PRESUMED, log 18). -/
def elementByte (e : Int) : Byte := BitVec.ofInt 8 e

end Sys2Proof.Machine
end

