-- ==== Sys2Proof/Safety.lean ====
section
/-! DEFINITION. What a reachable state of the codec looks like: the rules of spec/10_state.md that hold of every state, as one
invariant, and what the buffers hold while an operation runs (R76, R104). -/

namespace Sys2Proof.Machine

/-- The sequencer fits the registers: the job is the one the issue check gives for OP.CODE, N and M, the counter is inside the
frame, each major state belongs to the operation's path, and an exchange has handed over its frame (R39, R40, R41, R65, R190). -/
def State.MajorOk (s : State) : Prop :=
  match s.major with
  | .notBusy => True
  | .encode job i k =>
    issueCheck s.opCode s = .ok job ∧ codeIsDecode s.opCode = false ∧ i < job.samples ∧ k < job.stride
  | .exchange job =>
    issueCheck s.opCode s = .ok job ∧ codeHasExchange s.opCode = true ∧
      s.calls.getLast? = some { length := job.length, tx := txBytes s job.length }
  | .decode job i =>
    issueCheck s.opCode s = .ok job ∧ job.kind = .classify ∧
      (codeIsDecode s.opCode = true ∨ codeHasExchange s.opCode = true) ∧ i < job.samples

/-- The invariant of the codec. -/
structure State.Inv (s : State) : Prop where
  /-- 1 ≤ M_MAX (R7). -/
  mMax_pos : s.mMax ≠ 0
  /-- STATE is BUSY exactly while the sequencer is not NOT_BUSY (R25). -/
  busy_iff : s.stState = .busy ↔ s.major ≠ .notBusy
  /-- ERR is NONE exactly while STATE is not ERROR (R26). -/
  err_iff : s.stErr = .none ↔ s.stState ≠ .error
  /-- VBUF is canonical and within its size (R8, R34). -/
  vbuf_ok : Memory.wf s.vbuf ∧ CellsBelow (vbufSize s) s.vbuf
  /-- TXBUF is canonical and within its size (R8, R35). -/
  txbuf_ok : Memory.wf s.txbuf ∧ CellsBelow (frameMax s) s.txbuf
  /-- RXBUF is canonical and within its size (R8, R36). -/
  rxbuf_ok : Memory.wf s.rxbuf ∧ CellsBelow (frameMax s) s.rxbuf
  /-- RES is canonical and within its size (R8, R33). -/
  res_ok : ResultFile.wf s.res ∧ CellsBelow (resSize s) s.res
  /-- No frame length exceeds FRAME_MAX (R12, R31). -/
  len_ok : s.len.toNat ≤ frameMax s
  /-- The sequencer fits the registers (R39 to R41). -/
  major_ok : s.MajorOk

/-- What the buffers hold while an operation runs: the slots already encoded carry their frame bytes, and the entries already
decoded carry their results (R102, R103, R104). -/
def State.Progress (s : State) : Prop :=
  match s.major with
  | .notBusy => True
  | .encode job i k =>
    ∀ p, p < i * job.stride + k → some (readTxbuf s p) = slotByte job.kind s (p / job.stride) (p % job.stride)
  | .exchange job =>
    ∀ p, p < job.length → some (readTxbuf s p) = slotByte job.kind s (p / job.stride) (p % job.stride)
  | .decode job i => ∀ j, j < i → readRes s j = sampleResult job s j

/-- How many sequencer steps the ENCODE or DECODE part of an operation takes from where it stands (R102, R103, R141). -/
def stepsLeft (s : State) : Nat :=
  match s.major with
  | .notBusy => 0
  | .exchange _ => 0
  | .encode job i k => job.length - (i * job.stride + k)
  | .decode job i => job.samples - i

/-- A machine that answers a next state, no fault and no refusal (R74). -/
def Continues (o : Host.Outcome State Fault Refusal) : Prop := ∃ t, o = .next t

end Sys2Proof.Machine
end

