-- ==== Sys2Proof/Certificates/Slice0/Obligations.lean ====
section
/-! DEFINITION. The statements for the provers. -/

open Sys2Proof Sys2Proof.Machine

/-! ### Encodings and frames -/

/-- A few words written out from the op-code map and the wire constants decode to their rows (R91, R110). -/
def Obligations.TableWordsDecode : Prop :=
  decodeOpWord 0b00000000000000000000000000000001 = .ok .encLearn ∧
  decodeOpWord 0b00000000000000000000000100000010 = .ok .encClassify ∧
  decodeOpWord 0b00000000000000000000000000000011 = .ok .encClassifyMulti ∧
  decodeOpWord 0b00000000000000000000000000000100 = .ok .decClassify ∧
  decodeOpWord 0b00000000000000000000000000001011 = .ok .txnClassifyMulti ∧
  decodeByte .wireByte 0b01100000 = .ok .learnCommand ∧
  decodeByte .wireByte 0b10000100 = .ok .readCategory ∧
  decodeByte .wireByte 0b00000000 = .ok .dummy

/-- Decode and encode agree in both directions: every row's byte decodes in its own format to the row, leaving the rest of the
stream, and the table word finds it; a byte that decodes to an instruction is that instruction's, in its own format. -/
def Obligations.InstructionRoundTrip : Prop :=
  (∀ (f : Format) (i : Instr) (rest : List Byte), i.WellFormedIn f →
    decode f (encode i ++ rest) = .ok (i, rest) ∧ decodeTableWord 8 (encodeByte i).toNat = some i) ∧
  (∀ (f : Format) (b : Byte) (i : Instr), decodeByte f b = .ok i → encodeByte i = b ∧ i.WellFormedIn f)

/-- Reading a frame off a byte stream gives back the frame that was encoded, with the rest of the stream (R93, R94, R107). -/
def Obligations.FrameRoundTrip : Prop :=
  ∀ (f : WireFrame) (rest : List Byte), f.WellFormed → decodeFrame (encodeFrame f ++ rest) = some (f, rest)

/-- A batch frame of vectors of one length reads back as exactly those vectors, and M = L / S (R97, R98, R107). -/
def Obligations.BatchRoundTrip : Prop :=
  ∀ (n : Nat) (vs : List (List Byte)), 1 ≤ n → n ≤ 64 → (∀ v ∈ vs, v.length = n) →
    decodeFrames vs.length (multiFrame vs) = some (vs.map .classify) ∧
    (vs ≠ [] → batchSize (multiFrame vs) = some vs.length)

/-- The properties of the encoders that the source states (R160). -/
def Obligations.EncodedFrameProperties : Prop :=
  ∀ (v : List Byte) (c : Half), 1 ≤ v.length → v.length ≤ 64 →
    (learnFrame v c).length = v.length + 4 ∧
    (learnFrame v c)[0]? = some 0x60 ∧
    (∃ h l, (learnFrame v c)[1]? = some h ∧ (learnFrame v c)[2]? = some l ∧ (unbe16 h l).toNat = v.length - 1) ∧
    (∃ b, (learnFrame v c)[v.length + 3]? = some b ∧ b.toNat = c.toNat % 256) ∧
    (classifyFrame v).length = v.length + 11

/-- The CLASSIFY frame byte by byte, N + 11 bytes with 0x00 in the six padding slots (R94, R96, R154). -/
def Obligations.ClassifyFrameLayout : Prop :=
  ∀ v : List Byte, 1 ≤ v.length → v.length ≤ 64 →
    (classifyFrame v).length = v.length + 11 ∧
    (classifyFrame v)[0]? = some 0x40 ∧
    (classifyFrame v)[1]? = some 0x00 ∧
    (classifyFrame v)[2]? = some (BitVec.ofNat 8 (v.length - 1)) ∧
    (∀ j, j < v.length → (classifyFrame v)[3 + j]? = v[j]?) ∧
    (classifyFrame v)[v.length + 3]? = some 0x83 ∧
    (∀ p, p < 3 → (classifyFrame v)[v.length + 4 + p]? = some 0x00) ∧
    (classifyFrame v)[v.length + 7]? = some 0x84 ∧
    (∀ p, p < 3 → (classifyFrame v)[v.length + 8 + p]? = some 0x00)

/-- frame_byte gives, slot by slot, the LEARN frame and the CLASSIFY frame, and no slot beyond them (R100). -/
def Obligations.FrameByteGivesTheFrames : Prop :=
  ∀ (v : List Byte) (c : Half) (k : Nat), 1 ≤ v.length → v.length ≤ 64 →
    frameByte .learn v.length c (fun j => v.getD j 0) k = (learnFrame v c)[k]? ∧
    frameByte .classify v.length c (fun j => v.getD j 0) k = (classifyFrame v)[k]?

/-- A batch frame is the concatenation of the frames of its samples, M·S bytes, and its byte i·S + k is frame_byte k of vector i,
whatever the category (R97, R170). -/
def Obligations.MultiFrameSlots : Prop :=
  ∀ (n : Nat) (vs : List (List Byte)) (c : Half), 1 ≤ n → n ≤ 64 → (∀ v ∈ vs, v.length = n) →
    multiFrame vs = (vs.map classifyFrame).flatten ∧
    (multiFrame vs).length = vs.length * (n + 11) ∧
    ∀ (i k : Nat) (v : List Byte), vs[i]? = some v → k < n + 11 →
      (multiFrame vs)[i * (n + 11) + k]? = (classifyFrame v)[k]? ∧
      (multiFrame vs)[i * (n + 11) + k]? = frameByte .classify n c (fun j => v.getD j 0) k

/-- A distance and a category planted at the response offsets decode to exactly themselves, whatever the other bytes: two
response bytes combine as unsigned bytes, high byte first, with no sign extension (R13, R157, R159). -/
def Obligations.PlantedResponseDecodes : Prop :=
  (∀ h l : Byte, (unbe16 h l).toNat = h.toNat * 256 + l.toNat) ∧
  ∀ (n : Nat) (D C : Half) (r : Nat → Byte), 1 ≤ n → n ≤ 64 →
    r (n + 5) = D.extractLsb' 8 8 → r (n + 6) = D.extractLsb' 0 8 →
    r (n + 9) = C.extractLsb' 8 8 → r (n + 10) = C.extractLsb' 0 8 →
    decodeClassify r 0 n = { distance := D, category := C }

/-- A batch frame of M vectors of length N has M·(N + 11) bytes and is the concatenation of their CLASSIFY frames, and decoding a
response made of M slices laid end to end gives, in order, what each slice decodes to alone (R177). -/
def Obligations.BatchDecodesSliceBySlice : Prop :=
  ∀ (n : Nat) (vs slices : List (List Byte)), 1 ≤ n → n ≤ 64 → (∀ v ∈ vs, v.length = n) → (∀ x ∈ slices, x.length = n + 11) →
    (multiFrame vs).length = vs.length * (n + 11) ∧ multiFrame vs = (vs.map classifyFrame).flatten ∧
    decodeMulti (fun k => slices.flatten.getD k 0) slices.length n =
      slices.map fun x => decodeClassify (fun k => x.getD k 0) 0 n

/-! ### The step runs the decoded instruction -/

/-- The host's write to OP runs the instruction its low byte decodes to, in every state (R23, R130). -/
def Obligations.StepRunsTheIssuedOperation : Prop :=
  ∀ (s : State) (rest : List Input) (x : Word) (i : Instr),
    s.inputs = .host (.write .reg 0x00 32 x) :: rest → decodeOpWord x = .ok i →
    step s = exec i { s with inputs := rest }

/-- A sequencer step, alone or on a tick, at a slot that carries a wire constant runs that wire byte (R102). -/
def Obligations.StepRunsTheWireByteOfTheSlot : Prop :=
  ∀ (s : State) (job : Job) (i k : Nat) (wire : Instr),
    s.major = .encode job i k → slotConstant job.kind s.n.toNat k = some wire →
    (s.inputs = [] → step s = exec wire s) ∧
    (∀ rest, s.inputs = .tick :: rest → step s = exec wire { s with inputs := rest })

/-- A write to OP that leaves its operation running enters ENCODE at slot (0, 0), or DECODE at entry 0 (R130, R137). -/
def Obligations.OverlappedIssueEntersFirstMajorState : Prop :=
  ∀ (s : State) (rest : List Input) (x : Word) (job : Job),
    s.inputs = .hostOverlapped (.write .reg 0x00 32 x) :: rest → s.stState ≠ .busy →
    issueCheck (opCodeOf x) s = .ok job →
    step s = .next { s with
      inputs := rest, opCode := opCodeOf x, stErr := .none, stState := .busy
      major := if opCodeOf x = 0x04 ∨ opCodeOf x = 0x05 then .decode job 0 else .encode job 0 0 }

/-! ### The operations -/

/-- ENC_LEARN puts learn_frame in TXBUF, LEN = N + 4, DONE; everything else is unchanged (R150, R152). -/
def Obligations.EncLearnBuildsItsFrame : Prop :=
  ∀ s : State, s.stState ≠ .busy → 1 ≤ s.n.toNat → s.n.toNat ≤ 64 →
    ∃ t, exec .encLearn s = .next t ∧
      (∀ k, k < s.n.toNat + 4 → some (readTxbuf t k) = (learnFrame (sampleVector s 0) s.cat)[k]?) ∧
      (∀ k, s.n.toNat + 4 ≤ k → readTxbuf t k = readTxbuf s k) ∧
      t = { s with
        opCode := 0x01, stState := .done, stErr := .none, len := BitVec.ofNat 32 (s.n.toNat + 4)
        major := .notBusy, txbuf := t.txbuf }

/-- ENC_CLASSIFY puts classify_frame in TXBUF, LEN = N + 11, DONE; everything else is unchanged (R153, R155). -/
def Obligations.EncClassifyBuildsItsFrame : Prop :=
  ∀ s : State, s.stState ≠ .busy → 1 ≤ s.n.toNat → s.n.toNat ≤ 64 →
    ∃ t, exec .encClassify s = .next t ∧
      (∀ k, k < s.n.toNat + 11 → some (readTxbuf t k) = (classifyFrame (sampleVector s 0))[k]?) ∧
      (∀ k, s.n.toNat + 11 ≤ k → readTxbuf t k = readTxbuf s k) ∧
      t = { s with
        opCode := 0x02, stState := .done, stErr := .none, len := BitVec.ofNat 32 (s.n.toNat + 11)
        major := .notBusy, txbuf := t.txbuf }

/-- ENC_CLASSIFY_MULTI puts multi_frame in TXBUF, LEN = M·(N + 11), DONE; everything else is unchanged (R170, R172). -/
def Obligations.EncClassifyMultiBuildsItsFrame : Prop :=
  ∀ s : State, s.stState ≠ .busy → 1 ≤ s.n.toNat → s.n.toNat ≤ 64 → 1 ≤ s.m.toNat → s.m.toNat ≤ s.mMax.toNat →
    ∃ t, exec .encClassifyMulti s = .next t ∧
      (∀ k, k < s.m.toNat * (s.n.toNat + 11) →
        some (readTxbuf t k) = (multiFrame (sampleVectors s s.m.toNat))[k]?) ∧
      (∀ k, s.m.toNat * (s.n.toNat + 11) ≤ k → readTxbuf t k = readTxbuf s k) ∧
      t = { s with
        opCode := 0x03, stState := .done, stErr := .none
        len := BitVec.ofNat 32 (s.m.toNat * (s.n.toNat + 11)), major := .notBusy, txbuf := t.txbuf }

/-- DEC_CLASSIFY writes RES[0] from its four response bytes, LEN = N + 11, DONE; everything else is unchanged (R156, R158). -/
def Obligations.DecClassifyWritesItsResult : Prop :=
  ∀ s : State, s.stState ≠ .busy → 1 ≤ s.n.toNat → s.n.toNat ≤ 64 →
    ∃ t, exec .decClassify s = .next t ∧
      readRes t 0 =
        { distance := unbe16 (readRxbuf s (s.n.toNat + 5)) (readRxbuf s (s.n.toNat + 6))
          category := unbe16 (readRxbuf s (s.n.toNat + 9)) (readRxbuf s (s.n.toNat + 10)) } ∧
      (∀ j, 1 ≤ j → readRes t j = readRes s j) ∧
      t = { s with
        opCode := 0x04, stState := .done, stErr := .none, len := BitVec.ofNat 32 (s.n.toNat + 11)
        major := .notBusy, res := t.res }

/-- DEC_CLASSIFY_MULTI writes RES[i] from the four response bytes of sample i for every i < M, in input order, LEN = M·(N + 11),
DONE; everything else is unchanged (R173, R174, R175). -/
def Obligations.DecClassifyMultiWritesItsResults : Prop :=
  ∀ s : State, s.stState ≠ .busy → 1 ≤ s.n.toNat → s.n.toNat ≤ 64 → 1 ≤ s.m.toNat → s.m.toNat ≤ s.mMax.toNat →
    ∃ t, exec .decClassifyMulti s = .next t ∧
      (∀ i, i < s.m.toNat → readRes t i =
        { distance := unbe16 (readRxbuf s (i * (s.n.toNat + 11) + s.n.toNat + 5))
                             (readRxbuf s (i * (s.n.toNat + 11) + s.n.toNat + 6))
          category := unbe16 (readRxbuf s (i * (s.n.toNat + 11) + s.n.toNat + 9))
                             (readRxbuf s (i * (s.n.toNat + 11) + s.n.toNat + 10)) }) ∧
      (∀ j, s.m.toNat ≤ j → readRes t j = readRes s j) ∧
      t = { s with
        opCode := 0x05, stState := .done, stErr := .none
        len := BitVec.ofNat 32 (s.m.toNat * (s.n.toNat + 11)), major := .notBusy, res := t.res }

/-- TXN_LEARN builds the frame ENC_LEARN builds and makes its one call Exchange(N + 4, frame); it is then BUSY in EXCHANGE, and
everything else is unchanged (R190, R194, R196). -/
def Obligations.TxnLearnSendsItsFrame : Prop :=
  ∀ s : State, s.stState ≠ .busy → 1 ≤ s.n.toNat → s.n.toNat ≤ 64 →
    ∃ t, exec .txnLearn s = .next t ∧
      (∀ k, s.n.toNat + 4 ≤ k → readTxbuf t k = readTxbuf s k) ∧
      txBytes t (s.n.toNat + 4) = learnFrame (sampleVector s 0) s.cat ∧
      t = { s with
        opCode := 0x09, stState := .busy, stErr := .none
        major := .exchange
          { code := 0x09, kind := .learn, samples := 1, stride := s.n.toNat + 4, length := s.n.toNat + 4 }
        calls := s.calls ++ [{ length := s.n.toNat + 4, tx := learnFrame (sampleVector s 0) s.cat }]
        txbuf := t.txbuf }

/-- TXN_CLASSIFY builds the frame ENC_CLASSIFY builds and makes its one call Exchange(N + 11, frame); it is then BUSY in
EXCHANGE, and everything else is unchanged (R190, R194, R197). -/
def Obligations.TxnClassifySendsItsFrame : Prop :=
  ∀ s : State, s.stState ≠ .busy → 1 ≤ s.n.toNat → s.n.toNat ≤ 64 →
    ∃ t, exec .txnClassify s = .next t ∧
      (∀ k, s.n.toNat + 11 ≤ k → readTxbuf t k = readTxbuf s k) ∧
      txBytes t (s.n.toNat + 11) = classifyFrame (sampleVector s 0) ∧
      t = { s with
        opCode := 0x0A, stState := .busy, stErr := .none
        major := .exchange
          { code := 0x0A, kind := .classify, samples := 1, stride := s.n.toNat + 11, length := s.n.toNat + 11 }
        calls := s.calls ++ [{ length := s.n.toNat + 11, tx := classifyFrame (sampleVector s 0) }]
        txbuf := t.txbuf }

/-- TXN_CLASSIFY_MULTI builds the frame ENC_CLASSIFY_MULTI builds and makes one call of M·(N + 11) bytes, never M calls; it is
then BUSY in EXCHANGE, and everything else is unchanged (R190, R194, R198). -/
def Obligations.TxnClassifyMultiSendsItsFrame : Prop :=
  ∀ s : State, s.stState ≠ .busy → 1 ≤ s.n.toNat → s.n.toNat ≤ 64 → 1 ≤ s.m.toNat → s.m.toNat ≤ s.mMax.toNat →
    ∃ t, exec .txnClassifyMulti s = .next t ∧
      (∀ k, s.m.toNat * (s.n.toNat + 11) ≤ k → readTxbuf t k = readTxbuf s k) ∧
      txBytes t (s.m.toNat * (s.n.toNat + 11)) = multiFrame (sampleVectors s s.m.toNat) ∧
      t = { s with
        opCode := 0x0B, stState := .busy, stErr := .none
        major := .exchange
          { code := 0x0B, kind := .classify, samples := s.m.toNat, stride := s.n.toNat + 11
            length := s.m.toNat * (s.n.toNat + 11) }
        calls := s.calls ++
          [{ length := s.m.toNat * (s.n.toNat + 11), tx := multiFrame (sampleVectors s s.m.toNat) }]
        txbuf := t.txbuf }

/-- A batch of one sample is the single sample: the same frame, the same result, and the MULTI operations with M = 1 have the
effects of the single-sample ones (R176). -/
def Obligations.BatchOfOneIsTheSingleOperation : Prop :=
  (∀ v : List Byte, multiFrame [v] = classifyFrame v) ∧
  (∀ (r : Nat → Byte) (n : Nat), decodeMulti r 1 n = [decodeClassify r 0 n]) ∧
  ∀ s : State, s.stState ≠ .busy → 1 ≤ s.n.toNat → s.n.toNat ≤ 64 → s.m = 1 → s.mMax ≠ 0 →
    (∃ t, exec .encClassify s = .next t ∧ exec .encClassifyMulti s = .next { t with opCode := 0x03 }) ∧
    (∃ t, exec .decClassify s = .next t ∧ exec .decClassifyMulti s = .next { t with opCode := 0x05 })

/-- ENC_CLASSIFY_MULTI reads N, M and VBUF[0, M·N) and DEC_CLASSIFY_MULTI reads N, M and the four response bytes of each sample,
and nothing else: with other CAT, other buffers and other bytes elsewhere they do the same (R99, R113, R172, R173). -/
def Obligations.OperationsReadOnlyTheirOperands : Prop :=
  (∀ (s : State) (c : Half) (v r : Memory) (e : ResultFile),
    (∀ off, off < s.m.toNat * s.n.toNat → readVbuf { s with vbuf := v } off = readVbuf s off) →
    ∃ t, exec .encClassifyMulti s = .next t ∧
      exec .encClassifyMulti { s with cat := c, vbuf := v, rxbuf := r, res := e } =
        .next { t with cat := c, vbuf := v, rxbuf := r, res := e }) ∧
  (∀ (s : State) (c : Half) (v x r : Memory),
    (∀ i off, i < s.m.toNat → off = s.n.toNat + 5 ∨ off = s.n.toNat + 6 ∨ off = s.n.toNat + 9 ∨ off = s.n.toNat + 10 →
      readRxbuf { s with rxbuf := r } (i * (s.n.toNat + 11) + off) = readRxbuf s (i * (s.n.toNat + 11) + off)) →
    ∃ t, exec .decClassifyMulti s = .next t ∧
      exec .decClassifyMulti { s with cat := c, vbuf := v, txbuf := x, rxbuf := r } =
        .next { t with cat := c, vbuf := v, txbuf := x, rxbuf := r })

/-! ### The wire bytes -/

/-- The command bytes open a sample's frame: LEARN_COMMAND writes 0x60 and CLASSIFY_COMMAND 0x40 at slot 0, and the counter moves
to slot 1; everything else is unchanged (R93, R94, R97, R102). -/
def Obligations.CommandBytesOpenTheFrame : Prop :=
  ∀ (s : State) (job : Job) (i : Nat), s.major = .encode job i 0 → job.stride = strideOf job.kind s.n.toNat →
    ∃ t, (job.kind = .learn → exec .learnCommand s = .next t ∧ readTxbuf t (i * job.stride) = 0x60) ∧
      (job.kind = .classify → exec .classifyCommand s = .next t ∧ readTxbuf t (i * job.stride) = 0x40) ∧
      (∀ p, p ≠ i * job.stride → readTxbuf t p = readTxbuf s p) ∧
      t = { s with major := .encode job i 1, txbuf := t.txbuf }

/-- The selectors of a CLASSIFY frame: READ_DISTANCE writes 0x83 at slot N + 3, READ_CATEGORY 0x84 at slot N + 7, and the counter
moves on; everything else is unchanged (R94, R102). -/
def Obligations.SelectorsFollowTheVector : Prop :=
  ∀ (s : State) (job : Job) (i : Nat), job.kind = .classify → job.stride = s.n.toNat + 11 →
    (s.major = .encode job i (s.n.toNat + 3) →
      ∃ t, exec .readDistance s = .next t ∧ readTxbuf t (i * job.stride + (s.n.toNat + 3)) = 0x83 ∧
        (∀ p, p ≠ i * job.stride + (s.n.toNat + 3) → readTxbuf t p = readTxbuf s p) ∧
        t = { s with major := .encode job i (s.n.toNat + 4), txbuf := t.txbuf }) ∧
    (s.major = .encode job i (s.n.toNat + 7) →
      ∃ t, exec .readCategory s = .next t ∧ readTxbuf t (i * job.stride + (s.n.toNat + 7)) = 0x84 ∧
        (∀ p, p ≠ i * job.stride + (s.n.toNat + 7) → readTxbuf t p = readTxbuf s p) ∧
        t = { s with major := .encode job i (s.n.toNat + 8), txbuf := t.txbuf })

/-- DUMMY writes 0x00 in each of the six padding slots of a CLASSIFY frame. After the last one the counter goes to the next
sample, or the exchange begins, or the operation completes; everything else is unchanged (R94, R102, R154). -/
def Obligations.DummyFillsThePadding : Prop :=
  ∀ (s : State) (job : Job) (i k : Nat), s.major = .encode job i k → job.kind = .classify → job.stride = s.n.toNat + 11 →
    (s.n.toNat + 4 ≤ k ∧ k ≤ s.n.toNat + 6 ∨ s.n.toNat + 8 ≤ k ∧ k ≤ s.n.toNat + 10) →
    ∃ t, exec .dummy s = .next t ∧ readTxbuf t (i * job.stride + k) = 0x00 ∧
      (∀ p, p ≠ i * job.stride + k → readTxbuf t p = readTxbuf s p) ∧
      (k < s.n.toNat + 10 → t = { s with major := .encode job i (k + 1), txbuf := t.txbuf }) ∧
      (k = s.n.toNat + 10 → i + 1 < job.samples → t = { s with major := .encode job (i + 1) 0, txbuf := t.txbuf }) ∧
      (k = s.n.toNat + 10 → ¬ i + 1 < job.samples → job.code.getLsbD 3 = true →
        t = { s with
          major := .exchange job, txbuf := t.txbuf
          calls := s.calls ++ [{ length := job.length, tx := txBytes t job.length }] }) ∧
      (k = s.n.toNat + 10 → ¬ i + 1 < job.samples → job.code.getLsbD 3 = false →
        t = { s with
          major := .notBusy, txbuf := t.txbuf, len := BitVec.ofNat 32 job.length, stErr := .none, stState := .done })

/-- The model's choice (log 11): a wire byte asked for where the sequencer stands at no slot of that byte is refused by name,
since the codec emits it nowhere else (R108). -/
def Obligations.WireByteElsewhereIsRefused : Prop :=
  ∀ (s : State) (wire : Instr), wire.format = .wireByte →
    (∀ job i k, s.major = .encode job i k → slotConstant job.kind s.n.toNat k ≠ some wire) →
    exec wire s = .refused .noSlotForWireByte

/-! ### Checks and errors -/

/-- An operation whose check fails writes OP.CODE, STATE = ERROR and ERR = the code, and nothing else, however its write came
(R136, R221, R222). -/
def Obligations.FailedCheckWritesOnlyStatus : Prop :=
  ∀ (s : State) (rest : List Input) (x : Word) (e : ErrCode),
    (s.inputs = .host (.write .reg 0x00 32 x) :: rest ∨ s.inputs = .hostOverlapped (.write .reg 0x00 32 x) :: rest) →
    s.stState ≠ .busy → issueCheck (opCodeOf x) s = .error e →
    step s = .next { s with
      inputs := rest, opCode := opCodeOf x, stState := .error, stErr := e, major := .notBusy }

/-- A reserved code written to OP while not BUSY ends at once in BAD_OP, whatever N and M hold; OP.CODE keeps the code and nothing
else changes (R112, R222). -/
def Obligations.ReservedOpCodeEndsInBadOp : Prop :=
  ∀ (s : State) (rest : List Input) (x : Word),
    (s.inputs = .host (.write .reg 0x00 32 x) :: rest ∨ s.inputs = .hostOverlapped (.write .reg 0x00 32 x) :: rest) →
    s.stState ≠ .busy →
    (opCodeOf x = 0x00 ∨ opCodeOf x = 0x06 ∨ opCodeOf x = 0x07 ∨ opCodeOf x = 0x08 ∨ 0x0C ≤ (opCodeOf x).toNat) →
    step s = .next { s with
      inputs := rest, opCode := opCodeOf x, stState := .error, stErr := .badOp, major := .notBusy }

/-- Every assigned operation, encode or decode, with N = 0 or N > 64 raises BAD_N and does nothing else, whatever M holds (R134, R226). -/
def Obligations.BadVectorLengthIsRefusedByAll : Prop :=
  ∀ (s : State) (op : Instr), op.format = .hostOp → s.stState ≠ .busy → (s.n.toNat < 1 ∨ 64 < s.n.toNat) →
    exec op s = .next { s with
      opCode := encodeByte op, stState := .error, stErr := .badN, major := .notBusy }

/-- A MULTI operation with a legal N and M = 0 or M > M_MAX raises BAD_M and does nothing else; no other operation checks M or
reads it: with any other M it does the same (R135). -/
def Obligations.BadSampleCountIsRefusedByMulti : Prop :=
  ∀ (s : State) (op : Instr), op.format = .hostOp → s.stState ≠ .busy → 1 ≤ s.n.toNat → s.n.toNat ≤ 64 →
    (s.m = 0 ∨ s.mMax.toNat < s.m.toNat) →
    ((op = .encClassifyMulti ∨ op = .decClassifyMulti ∨ op = .txnClassifyMulti) →
      exec op s = .next { s with
        opCode := encodeByte op, stState := .error, stErr := .badM, major := .notBusy }) ∧
    (¬ (op = .encClassifyMulti ∨ op = .decClassifyMulti ∨ op = .txnClassifyMulti) →
      ∀ m', ∃ t, exec op s = .next t ∧ t.stErr = .none ∧ exec op { s with m := m' } = .next { t with m := m' })

/-! ### The host interface -/

/-- While BUSY every write but a 32-bit write to STATUS is ignored and sets OVR, at any space, offset and width. A 32-bit write to
STATUS, in every STATE, clears OVR exactly if bit 8 is 1 and changes nothing else. Nothing else but reset changes OVR, the start
and the end of an operation included (R27). -/
def Obligations.OverrunFlagFollowsItsRule : Prop :=
  (∀ (s : State) (rest : List Input) (sp : Space) (off width : Nat) (data : Word),
    (s.inputs = .host (.write sp off width data) :: rest ∨ s.inputs = .hostOverlapped (.write sp off width data) :: rest) →
    (s.stState = .busy → ¬ (sp = .reg ∧ width = 32 ∧ off = 0x04) → step s = .next { s with inputs := rest, ovr := true }) ∧
    (sp = .reg → width = 32 → off = 0x04 →
      step s = .next { s with inputs := rest, ovr := s.ovr && !data.getLsbD 8 })) ∧
  (∀ s t : State, step s = .next t → t.ovr ≠ s.ovr →
    ∃ rest, (s.inputs = .reset :: rest ∧ t.ovr = false) ∨
      ∃ sp off width data,
        (s.inputs = .host (.write sp off width data) :: rest ∨
          s.inputs = .hostOverlapped (.write sp off width data) :: rest) ∧
        ((t.ovr = true ∧ s.stState = .busy ∧ ¬ (sp = .reg ∧ width = 32 ∧ off = 0x04)) ∨
         (t.ovr = false ∧ sp = .reg ∧ width = 32 ∧ off = 0x04 ∧ data.getLsbD 8 = true)))

/-- A write to N, M or CAT while not BUSY stores the low 8, 16 and 16 bits; the other bits are dropped and nothing else changes
(R28, R29, R30). -/
def Obligations.OperandRegisterWrites : Prop :=
  ∀ (s : State) (rest : List Input) (off : Nat) (data : Word),
    (s.inputs = .host (.write .reg off 32 data) :: rest ∨ s.inputs = .hostOverlapped (.write .reg off 32 data) :: rest) →
    s.stState ≠ .busy →
    (off = 0x08 → step s = .next { s with inputs := rest, n := BitVec.ofNat 8 (data.toNat % 256) }) ∧
    (off = 0x0C → step s = .next { s with inputs := rest, m := BitVec.ofNat 16 (data.toNat % 65536) }) ∧
    (off = 0x10 → step s = .next { s with inputs := rest, cat := BitVec.ofNat 16 (data.toNat % 65536) })

/-- Not BUSY: a write to a read-only, unassigned or misaligned place, at another width or beyond a space's size, changes nothing
(R60 to R63). -/
def Obligations.IgnoredWriteChangesNothing : Prop :=
  ∀ (s : State) (rest : List Input) (sp : Space) (off width : Nat) (data : Word),
    (s.inputs = .host (.write sp off width data) :: rest ∨ s.inputs = .hostOverlapped (.write sp off width data) :: rest) →
    s.stState ≠ .busy →
    (sp = .reg ∧ (width ≠ 32 ∨ off % 4 ≠ 0 ∨ 0x14 ≤ off) ∨
      sp = .vbuf ∧ (width ≠ 8 ∨ s.mMax.toNat * 64 ≤ off) ∨
      sp = .rxbuf ∧ (width ≠ 8 ∨ s.mMax.toNat * 75 ≤ off) ∨ sp = .txbuf ∨ sp = .res) →
    step s = .next { s with inputs := rest }

/-- In every STATE a read at another width, misaligned, unassigned or beyond a space's size returns 0 (R61 to R63). -/
def Obligations.IgnoredReadReturnsZero : Prop :=
  ∀ (s : State) (rest : List Input) (sp : Space) (off width : Nat),
    (s.inputs = .host (.read sp off width) :: rest ∨ s.inputs = .hostOverlapped (.read sp off width) :: rest) →
    (sp = .reg ∧ (width ≠ 32 ∨ off % 4 ≠ 0 ∨ 0x1C ≤ off) ∨
      sp = .vbuf ∧ (width ≠ 8 ∨ s.mMax.toNat * 64 ≤ off) ∨
      sp = .txbuf ∧ (width ≠ 8 ∨ s.mMax.toNat * 75 ≤ off) ∨
      sp = .rxbuf ∧ (width ≠ 8 ∨ s.mMax.toNat * 75 ≤ off) ∨
      sp = .res ∧ (width ≠ 32 ∨ off % 4 ≠ 0 ∨ s.mMax.toNat ≤ off / 4)) →
    step s = .next { s with inputs := rest, readData := 0 }

/-- What reads of the registers return, with each field at its place: STATUS, OP, N, M, CAT and CAPS in every STATE, LEN while
not BUSY (R22, R24, R32, R67). -/
def Obligations.RegisterReads : Prop :=
  ∀ (s : State) (rest : List Input) (off : Nat),
    (s.inputs = .host (.read .reg off 32) :: rest ∨ s.inputs = .hostOverlapped (.read .reg off 32) :: rest) →
    (off = 0x00 → step s = .next { s with inputs := rest, readData := BitVec.ofNat 32 s.opCode.toNat }) ∧
    (off = 0x04 → step s = .next { s with
      inputs := rest
      readData := BitVec.ofNat 32
        (s.stState.code.toNat + 16 * s.stErr.code.toNat + 256 * s.ovr.toNat) }) ∧
    (off = 0x08 → step s = .next { s with inputs := rest, readData := BitVec.ofNat 32 s.n.toNat }) ∧
    (off = 0x0C → step s = .next { s with inputs := rest, readData := BitVec.ofNat 32 s.m.toNat }) ∧
    (off = 0x10 → step s = .next { s with inputs := rest, readData := BitVec.ofNat 32 s.cat.toNat }) ∧
    (off = 0x14 → s.stState ≠ .busy → step s = .next { s with inputs := rest, readData := s.len }) ∧
    (off = 0x18 → step s = .next { s with
      inputs := rest, readData := BitVec.ofNat 32 (64 * 65536 + s.mMax.toNat) })

/-- Not BUSY: a byte read of a buffer returns the byte, and a 32-bit read of RES at 4·i returns distance in [31:16] and category
in [15:0] of entry i (R33, R62, R63). -/
def Obligations.BufferAndResultReads : Prop :=
  ∀ (s : State) (rest : List Input) (sp : Space) (off width : Nat),
    (s.inputs = .host (.read sp off width) :: rest ∨ s.inputs = .hostOverlapped (.read sp off width) :: rest) →
    s.stState ≠ .busy →
    (sp = .vbuf → width = 8 → off < s.mMax.toNat * 64 →
      step s = .next { s with inputs := rest, readData := BitVec.ofNat 32 (readVbuf s off).toNat }) ∧
    (sp = .txbuf → width = 8 → off < s.mMax.toNat * 75 →
      step s = .next { s with inputs := rest, readData := BitVec.ofNat 32 (readTxbuf s off).toNat }) ∧
    (sp = .rxbuf → width = 8 → off < s.mMax.toNat * 75 →
      step s = .next { s with inputs := rest, readData := BitVec.ofNat 32 (readRxbuf s off).toNat }) ∧
    (∀ i, sp = .res → width = 32 → off = 4 * i → i < s.mMax.toNat →
      step s = .next { s with
        inputs := rest
        readData := BitVec.ofNat 32 ((readRes s i).distance.toNat * 65536 + (readRes s i).category.toNat) })

/-- A read, in every STATE, changes nothing but the word it returns and the model's count of free values (R67, R73). -/
def Obligations.ReadHasNoSideEffect : Prop :=
  ∀ (s : State) (rest : List Input) (sp : Space) (off width : Nat),
    (s.inputs = .host (.read sp off width) :: rest ∨ s.inputs = .hostOverlapped (.read sp off width) :: rest) →
    ∃ t, step s = .next t ∧ t = { s with inputs := rest, readData := t.readData, draws := t.draws } ∧
      (s.stState ≠ .busy → t.draws = s.draws)

/-- The model's form of "unspecified" (log 8): while BUSY a read of LEN, of a buffer byte or of a RES entry returns the free value of
this read's number, and the next such read gets the next one; nothing else changes (R67). -/
def Obligations.BusyReadsAreFreeValues : Prop :=
  ∀ (s : State) (rest : List Input) (sp : Space) (off width : Nat),
    (s.inputs = .host (.read sp off width) :: rest ∨ s.inputs = .hostOverlapped (.read sp off width) :: rest) →
    s.stState = .busy →
    (sp = .reg ∧ width = 32 ∧ off = 0x14 ∨ sp = .res ∧ width = 32 ∧ off % 4 = 0 ∧ off / 4 < s.mMax.toNat →
      step s = .next { s with inputs := rest, readData := Config.busyRead s.draws, draws := s.draws + 1 }) ∧
    (sp = .vbuf ∧ width = 8 ∧ off < s.mMax.toNat * 64 ∨ (sp = .txbuf ∨ sp = .rxbuf) ∧ width = 8 ∧ off < s.mMax.toNat * 75 →
      step s = .next { s with
        inputs := rest, readData := BitVec.ofNat 32 ((Config.busyRead s.draws).toNat % 256), draws := s.draws + 1 })

/-- A byte written to VBUF or RXBUF while not BUSY is what that byte then reads as, and no other byte of any space changes
(R34, R36, R62). -/
def Obligations.BufferWriteStoresOneByte : Prop :=
  ∀ (s : State) (rest : List Input) (sp : Space) (off : Nat) (data : Word),
    (s.inputs = .host (.write sp off 8 data) :: rest ∨ s.inputs = .hostOverlapped (.write sp off 8 data) :: rest) →
    s.stState ≠ .busy →
    (sp = .vbuf → off < s.mMax.toNat * 64 →
      ∃ t, step s = .next t ∧ readVbuf t off = data.extractLsb' 0 8 ∧
        (∀ p, p ≠ off → readVbuf t p = readVbuf s p) ∧ t = { s with inputs := rest, vbuf := t.vbuf }) ∧
    (sp = .rxbuf → off < s.mMax.toNat * 75 →
      ∃ t, step s = .next t ∧ readRxbuf t off = data.extractLsb' 0 8 ∧
        (∀ p, p ≠ off → readRxbuf t p = readRxbuf s p) ∧ t = { s with inputs := rest, rxbuf := t.rxbuf })

/-- SETUP stores N, M and CAT, and LOADV stores its bytes at consecutive offsets, each access taken in program order (R115, R116). -/
def Obligations.SetupAndLoadvStoreTheirOperands : Prop :=
  ∀ (s : State) (n m c : Word) (bytes : List Byte) (off : Nat), s.stState ≠ .busy →
    off + bytes.length ≤ s.mMax.toNat * 64 →
    s.inputs = programInputs ((Pseudo.setup n m c).expand ++ (Pseudo.loadv off bytes).expand) →
    ∃ t, core.run (3 + bytes.length) s = .next t ∧
      (∀ j, j < bytes.length → some (readVbuf t (off + j)) = bytes[j]?) ∧
      (∀ p, p < off ∨ off + bytes.length ≤ p → readVbuf t p = readVbuf s p) ∧
      t = { s with
        inputs := [], n := n.extractLsb' 0 8, m := m.extractLsb' 0 16, cat := c.extractLsb' 0 16, vbuf := t.vbuf }

/-! ### The sequencer and the transport -/

/-- One encode step, alone or on a tick, at any slot of the frame: it writes the byte of slot (i, k) at TXBUF offset i·S' + k and
nothing else in TXBUF, then advances as R102 says. -/
def Obligations.EncodeStepWritesItsSlot : Prop :=
  ∀ (s : State) (rest : List Input) (job : Job) (i k : Nat), s.Inv →
    (s.inputs = [] ∧ rest = [] ∨ s.inputs = .tick :: rest) → s.major = .encode job i k →
    ∃ t, step s = .next t ∧
      some (readTxbuf t (i * job.stride + k)) =
        frameByte job.kind s.n.toNat s.cat (fun j => readVbuf s (i * s.n.toNat + j)) k ∧
      (∀ p, p ≠ i * job.stride + k → readTxbuf t p = readTxbuf s p) ∧
      (k + 1 < job.stride → t = { s with inputs := rest, txbuf := t.txbuf, major := .encode job i (k + 1) }) ∧
      (¬ k + 1 < job.stride → i + 1 < job.samples →
        t = { s with inputs := rest, txbuf := t.txbuf, major := .encode job (i + 1) 0 }) ∧
      (¬ k + 1 < job.stride → ¬ i + 1 < job.samples → s.opCode.getLsbD 3 = true →
        t = { s with
          inputs := rest, txbuf := t.txbuf, major := .exchange job
          calls := s.calls ++ [{ length := job.length, tx := txBytes t job.length }] }) ∧
      (¬ k + 1 < job.stride → ¬ i + 1 < job.samples → s.opCode.getLsbD 3 = false →
        t = { s with
          inputs := rest, txbuf := t.txbuf, major := .notBusy
          len := BitVec.ofNat 32 job.length, stErr := .none, stState := .done })

/-- One decode step, alone or on a tick, writes RES[i] from the four bytes at base i·S and no other entry, then goes on or
completes (R103, R138). -/
def Obligations.DecodeStepWritesItsEntry : Prop :=
  ∀ (s : State) (rest : List Input) (job : Job) (i : Nat), s.Inv →
    (s.inputs = [] ∧ rest = [] ∨ s.inputs = .tick :: rest) → s.major = .decode job i →
    ∃ t, step s = .next t ∧
      readRes t i =
        { distance := unbe16 (readRxbuf s (i * (s.n.toNat + 11) + s.n.toNat + 5))
                             (readRxbuf s (i * (s.n.toNat + 11) + s.n.toNat + 6))
          category := unbe16 (readRxbuf s (i * (s.n.toNat + 11) + s.n.toNat + 9))
                             (readRxbuf s (i * (s.n.toNat + 11) + s.n.toNat + 10)) } ∧
      (∀ j, j ≠ i → readRes t j = readRes s j) ∧
      (i + 1 < job.samples → t = { s with inputs := rest, res := t.res, major := .decode job (i + 1) }) ∧
      (¬ i + 1 < job.samples → t = { s with
        inputs := rest, res := t.res, major := .notBusy
        len := BitVec.ofNat 32 job.length, stErr := .none, stState := .done })

/-- The byte-by-byte machine and the whole-frame functions agree: an operation issued and then run by the sequencer alone, one
slot or one sample at a time, ends in exactly the state of the one atomic step, up to its exchange (R104, R142). -/
def Obligations.StepwiseRunIsTheAtomicOperation : Prop :=
  ∀ (s : State) (op : Instr), op.format = .hostOp → s.stState ≠ .busy → s.inputs = [] →
    core.run (stepsLeft (issue (encodeByte op) s)) (issue (encodeByte op) s) = exec op s

/-- ENCODE ends after at most L steps and DECODE after at most M' steps when no input comes between (R102, R103, R141). -/
def Obligations.EncodeAndDecodeTerminate : Prop :=
  ∀ s : State, s.Inv → s.inputs = [] →
    ∃ t, core.run (stepsLeft s) s = .next t ∧ (t.major = .notBusy ∨ ∃ job, t.major = .exchange job) ∧
      (∀ job i k, s.major = .encode job i k → stepsLeft s ≤ job.length) ∧
      (∀ job i, s.major = .decode job i → stepsLeft s ≤ job.samples)

/-- The codec stays in EXCHANGE, and STATE stays BUSY, until the transport returns: whatever else the host does, and for however
many steps, as long as no answer to this exchange and no reset comes (R193). -/
def Obligations.UnansweredExchangeWaitsForEver : Prop :=
  ∀ (s : State) (job : Job) (k : Nat), s.major = .exchange job → s.stState = .busy →
    (∀ x ∈ s.inputs, x ≠ .reset ∧ ∀ a, x ≠ .answer s.calls.length a) →
    ∃ t, core.run k s = .next t ∧ t.major = .exchange job ∧ t.stState = .busy

/-- On Ok(rx), |rx| = L, RXBUF[k] = rx[k] for every k < L and RXBUF beyond L is unchanged. A LEARN transaction is then complete;
any other goes on to DECODE entry 0; nothing else changes but the model's draw count (R191, R196, R201). -/
def Obligations.ExchangeOkFillsReceiveBuffer : Prop :=
  ∀ (s : State) (rest : List Input) (job : Job) (rx : List Byte),
    s.inputs = .answer s.calls.length (.ok rx) :: rest → s.major = .exchange job → rx.length = job.length →
    ∃ t, step s = .next t ∧
      (∀ k, k < job.length → some (readRxbuf t k) = rx[k]?) ∧
      (∀ k, job.length ≤ k → readRxbuf t k = readRxbuf s k) ∧
      (job.kind = .learn → t = { s with
        inputs := rest, rxbuf := t.rxbuf, draws := t.draws, major := .notBusy
        len := BitVec.ofNat 32 job.length, stErr := .none, stState := .done }) ∧
      (job.kind = .classify → t = { s with
        inputs := rest, rxbuf := t.rxbuf, draws := t.draws, major := .decode job 0 })

/-- On Fail: LEN = L, error TRANSPORT, NOT_BUSY; RXBUF beyond L, RES, TXBUF and VBUF are unchanged, and no new exchange is made
(R195, R224). RXBUF[0, L) may hold anything, so the statement says nothing of it. -/
def Obligations.ExchangeFailureRaisesTransport : Prop :=
  ∀ (s : State) (rest : List Input) (job : Job),
    s.inputs = .answer s.calls.length .fail :: rest → s.major = .exchange job →
    ∃ t, step s = .next t ∧
      (∀ k, job.length ≤ k → readRxbuf t k = readRxbuf s k) ∧
      t = { s with
        inputs := rest, rxbuf := t.rxbuf, draws := t.draws, major := .notBusy
        len := BitVec.ofNat 32 job.length, stErr := .transport, stState := .error }

/-- The model's choice (log 10): an answer that names a call other than the outstanding one, in any state, changes nothing. R252
itself speaks only of the late result of an exchange that was outstanding at a reset, which is never written. -/
def Obligations.LateAnswerIsDropped : Prop :=
  ∀ (s : State) (rest : List Input) (call : Nat) (a : Answer),
    s.inputs = .answer call a :: rest → (call ≠ s.calls.length ∨ ∀ job, s.major ≠ .exchange job) →
    step s = .next { s with inputs := rest }

/-- The whole pipeline of a classification transaction: from a write to OP, one exchange answered Ok(rx) and the sequencer alone,
the operation is DONE with the frame sent in one call, rx in RXBUF and result i decoded from sample i of rx (R197, R198, R199). -/
def Obligations.ClassificationPipeline : Prop :=
  ∀ (s : State) (x : Word) (job : Job) (rx : List Byte),
    s.stState ≠ .busy → (opCodeOf x = 0x0A ∨ opCodeOf x = 0x0B) → issueCheck (opCodeOf x) s = .ok job →
    s.inputs = [.host (.write .reg 0x00 32 x), .answer (s.calls.length + 1) (.ok rx)] → rx.length = job.length →
    ∃ t, core.run (2 + job.samples) s = .next t ∧
      t.calls = s.calls ++ [{ length := job.length, tx := multiFrame (sampleVectors s job.samples) }] ∧
      (∀ k, k < job.length → some (readTxbuf t k) = (multiFrame (sampleVectors s job.samples))[k]?) ∧
      (∀ k, job.length ≤ k → readTxbuf t k = readTxbuf s k ∧ readRxbuf t k = readRxbuf s k) ∧
      (∀ k, k < job.length → some (readRxbuf t k) = rx[k]?) ∧
      (∀ i, i < job.samples → readRes t i = decodeClassify (fun k => rx.getD k 0) (i * (s.n.toNat + 11)) s.n.toNat) ∧
      (∀ i, job.samples ≤ i → readRes t i = readRes s i) ∧
      t = { s with
        inputs := [], opCode := opCodeOf x, stState := .done, stErr := .none, major := .notBusy
        len := BitVec.ofNat 32 (job.samples * (s.n.toNat + 11)), calls := t.calls, txbuf := t.txbuf
        rxbuf := t.rxbuf, res := t.res, draws := t.draws }

/-- A transaction whose exchange fails ends in TRANSPORT with its frame in TXBUF, LEN = L and no RES entry written, for all three
TXN operations: there is no partial result (R195, R199, R231). -/
def Obligations.FailedTransactionWritesNoResult : Prop :=
  ∀ (s : State) (x : Word) (job : Job),
    s.stState ≠ .busy → (opCodeOf x = 0x09 ∨ opCodeOf x = 0x0A ∨ opCodeOf x = 0x0B) →
    issueCheck (opCodeOf x) s = .ok job →
    s.inputs = [.host (.write .reg 0x00 32 x), .answer (s.calls.length + 1) .fail] →
    ∃ t, core.run 2 s = .next t ∧
      t.calls = s.calls ++ [{ length := job.length, tx := txBytes t job.length }] ∧
      (∀ k, k < job.length → some (readTxbuf t k) = slotByte job.kind s (k / job.stride) (k % job.stride)) ∧
      (∀ k, job.length ≤ k → readTxbuf t k = readTxbuf s k ∧ readRxbuf t k = readRxbuf s k) ∧
      t = { s with
        inputs := [], opCode := opCodeOf x, stState := .error, stErr := .transport, major := .notBusy
        len := BitVec.ofNat 32 job.length, calls := t.calls, txbuf := t.txbuf, rxbuf := t.rxbuf, draws := t.draws }

/-! ### Reset, invariants and rules of the whole machine -/

/-- Reset, in every STATE: every register takes its reset value, CAPS keeps its value and the sequencer is NOT_BUSY (R250, R252). -/
def Obligations.ResetRestoresRegisters : Prop :=
  ∀ (s : State) (rest : List Input), s.inputs = .reset :: rest →
    ∃ t, step s = .next t ∧ t.opCode = 0x00 ∧ t.stState = .idle ∧ t.stErr = .none ∧ t.ovr = false ∧
      t.n = 0 ∧ t.m = 0 ∧ t.cat = 0 ∧ t.len = 0 ∧ t.mMax = s.mMax ∧ t.major = .notBusy ∧ t.inputs = rest

/-- The state after reset meets the invariant, whatever M_MAX is. -/
def Obligations.ResetMeetsInvariant : Prop := State.reset.Inv ∧ State.reset.Progress

/-- Every step from a state that meets the invariant leads to one that does: STATE is BUSY exactly while the sequencer works, ERR
is set exactly in ERROR, every buffer keeps its canonical form and its bound, the slot counter stays inside the frame
(R25, R26, R40, R41, R65). -/
def Obligations.StepKeepsInvariant : Prop :=
  ∀ s t : State, s.Inv → step s = .next t → t.Inv

/-- While an operation runs, the slots already encoded hold their frame bytes and the entries already decoded hold their results,
after every step, whatever inputs come between (R76, R104, R131). -/
def Obligations.StepKeepsProgress : Prop :=
  ∀ s t : State, s.Inv → s.Progress → step s = .next t → t.Progress

/-- No step of the machine stops: no access and no operation faults or is refused, in any state (R74, R221). -/
def Obligations.StepNeverStops : Prop := ∀ s : State, Continues (step s)

/-- Only a host write of an assigned code to OP takes the sequencer out of NOT_BUSY (R130, R237). -/
def Obligations.OnlyOpWriteStartsAnOperation : Prop :=
  ∀ s t : State, step s = .next t → s.major = .notBusy → t.major ≠ .notBusy →
    ∃ (x : Word) (rest : List Input) (i : Instr), decodeOpWord x = .ok i ∧ s.stState ≠ .busy ∧
      (s.inputs = .host (.write .reg 0x00 32 x) :: rest ∨ s.inputs = .hostOverlapped (.write .reg 0x00 32 x) :: rest)

/-- Each buffer changes only by its own writers, or by reset. VBUF: a host byte write while not BUSY. TXBUF: an encode step, or an
ENC or TXN operation run at once. RXBUF: the return of an exchange, or a host byte write while not BUSY. RES: a decode step, or a
DEC operation run at once (R33, R34, R35, R36). The reset number, which an unwritten byte or entry is read through, changes by
reset alone: what is not written keeps its value too (R251). -/
def Obligations.BuffersChangeOnlyByTheirWriters : Prop :=
  ∀ s t : State, step s = .next t → (∀ rest, s.inputs ≠ .reset :: rest) →
    t.epoch = s.epoch ∧
    (t.vbuf ≠ s.vbuf → ∃ rest off data, s.stState ≠ .busy ∧ off < s.mMax.toNat * 64 ∧
      (s.inputs = .host (.write .vbuf off 8 data) :: rest ∨ s.inputs = .hostOverlapped (.write .vbuf off 8 data) :: rest)) ∧
    (t.txbuf ≠ s.txbuf →
      (∃ job i k, s.major = .encode job i k ∧ (s.inputs = [] ∨ ∃ rest, s.inputs = .tick :: rest)) ∨
      (∃ x rest op, s.inputs = .host (.write .reg 0x00 32 x) :: rest ∧ s.stState ≠ .busy ∧ decodeOpWord x = .ok op ∧
        op ≠ .decClassify ∧ op ≠ .decClassifyMulti)) ∧
    (t.rxbuf ≠ s.rxbuf →
      (∃ job a rest, s.major = .exchange job ∧ s.inputs = .answer s.calls.length a :: rest) ∨
      (∃ rest off data, s.stState ≠ .busy ∧ off < s.mMax.toNat * 75 ∧
        (s.inputs = .host (.write .rxbuf off 8 data) :: rest ∨
          s.inputs = .hostOverlapped (.write .rxbuf off 8 data) :: rest))) ∧
    (t.res ≠ s.res →
      (∃ job i, s.major = .decode job i ∧ (s.inputs = [] ∨ ∃ rest, s.inputs = .tick :: rest)) ∨
      (∃ x rest op, s.inputs = .host (.write .reg 0x00 32 x) :: rest ∧ s.stState ≠ .busy ∧ decodeOpWord x = .ok op ∧
        (op = .decClassify ∨ op = .decClassifyMulti)))

/-- At most one exchange is outstanding: a step makes at most one Exchange call, only by entering EXCHANGE, and never while in
EXCHANGE (R140, R190, R194). -/
def Obligations.OneExchangeAtATime : Prop :=
  ∀ s t : State, s.Inv → step s = .next t →
    t.calls = s.calls ∨
    (∃ job, t.major = .exchange job ∧ codeHasExchange t.opCode = true ∧
      t.calls = s.calls ++ [{ length := job.length, tx := txBytes t job.length }] ∧ ∀ job', s.major ≠ .exchange job')

/-- The operands of a running operation are fixed: while BUSY, and until a reset, no step changes OP.CODE, N, M, CAT or VBUF, and
only the return of the exchange changes RXBUF; the reset number stays, so their unwritten bytes read as before too (R67, R131,
R251). CAPS never changes at all (R32). -/
def Obligations.OperandsAreFixedWhileBusy : Prop :=
  ∀ s t : State, step s = .next t → t.mMax = s.mMax ∧
    (s.stState = .busy → (∀ rest, s.inputs ≠ .reset :: rest) →
      t.opCode = s.opCode ∧ t.n = s.n ∧ t.m = s.m ∧ t.cat = s.cat ∧ t.epoch = s.epoch ∧ t.vbuf = s.vbuf ∧
      (t.rxbuf = s.rxbuf ∨ ∃ job a rest, s.major = .exchange job ∧ s.inputs = .answer s.calls.length a :: rest))
end

