-- ==== Sys2Proof/Laws/Frame.lean ====
section
/-! SUPPORT. The laws of the frame functions: lengths, and the byte at each slot (R93 to R101). -/

namespace Sys2Proof.Machine

@[simp] theorem be16_length (x : Half) : (be16 x).length = 2 := rfl

@[simp] theorem selectorTail_length : selectorTail.length = 8 := rfl

@[simp] theorem learnFrame_length (v : List Byte) (c : Half) : (learnFrame v c).length = v.length + 4 := by
  simp [learnFrame]; omega

@[simp] theorem classifyFrame_length (v : List Byte) : (classifyFrame v).length = v.length + 11 := by
  simp [classifyFrame]; omega

/-- A list of frames of one length, cut at a multiple of that length. -/
theorem getElem?_flatten_stride {α : Type} {S : Nat} {xs : List (List α)} (h : ∀ x ∈ xs, x.length = S) (i k : Nat) (hk : k < S) :
    xs.flatten[i * S + k]? = (xs[i]?).bind fun x => x[k]? := by
  induction xs generalizing i with
  | nil => simp
  | cons x xs ih =>
    have hx : x.length = S := h x (by simp)
    cases i with
    | zero => simp [List.getElem?_append_left (hx ▸ hk : k < x.length)]
    | succ i =>
      have e : (i + 1) * S + k = x.length + (i * S + k) := by rw [hx, Nat.succ_mul]; omega
      rw [List.flatten_cons, e, List.getElem?_append_right (by omega), Nat.add_sub_cancel_left,
        ih (fun y hy => h y (by simp [hy]))]
      simp

theorem flatten_stride_length {α : Type} {S : Nat} {xs : List (List α)} (h : ∀ x ∈ xs, x.length = S) :
    xs.flatten.length = xs.length * S := by
  induction xs with
  | nil => simp
  | cons x xs ih =>
    rw [List.flatten_cons, List.length_append, h x (by simp), ih (fun y hy => h y (by simp [hy])), List.length_cons,
      Nat.succ_mul]; omega

/-- The phase exists exactly for the slots of the frame. -/
theorem phaseOf_isSome (kind : FrameKind) (n k : Nat) : (phaseOf kind n k).isSome ↔ k < strideOf kind n := by
  cases kind <;> simp only [phaseOf, strideOf] <;> split_ifs <;> simp <;> omega

theorem frameByte_isSome (kind : FrameKind) (n k : Nat) (c : Half) (v : Nat → Byte) :
    (frameByte kind n c v k).isSome ↔ k < strideOf kind n := by simp [frameByte, phaseOf_isSome]

theorem strideOf_pos (kind : FrameKind) (n : Nat) : 0 < strideOf kind n := by cases kind <;> simp [strideOf]

theorem strideOf_le (kind : FrameKind) {n : Nat} (h : n ≤ nMax) : strideOf kind n ≤ strideOf .classify nMax := by
  cases kind <;> simp only [strideOf] <;> omega

end Sys2Proof.Machine
end

