-- ==== Sys2Proof/Laws/Memory.lean ====
section
/-! SUPPORT. The laws of the cell lists: what a read gives after a write, and that every write keeps the canonical form and the
bound. -/

namespace Sys2Proof.Machine

variable {α : Type}

theorem lookupCell_writeCell (m : List (Nat × α)) (a b : Nat) (v : α) :
    lookupCell (writeCell m a v) b = if b = a then some v else lookupCell m b := by
  induction m with
  | nil => simp [writeCell, lookupCell]
  | cons x rest ih =>
    obtain ⟨c, w⟩ := x
    unfold writeCell
    split
    · simp [lookupCell]
    · split
      · subst_vars; simp only [lookupCell]; split <;> simp_all
      · simp only [lookupCell, ih]; split <;> split <;> simp_all

@[simp] theorem lookupCell_writeCell_same (m : List (Nat × α)) (a : Nat) (v : α) :
    lookupCell (writeCell m a v) a = some v := by simp [lookupCell_writeCell]

theorem lookupCell_writeCell_other (m : List (Nat × α)) {a b : Nat} (v : α) (h : b ≠ a) :
    lookupCell (writeCell m a v) b = lookupCell m b := by simp [lookupCell_writeCell, h]

theorem mem_writeCell {m : List (Nat × α)} {a : Nat} {v : α} {x : Nat × α} (h : x ∈ writeCell m a v) :
    x = (a, v) ∨ x ∈ m := by
  induction m with
  | nil => simp_all [writeCell]
  | cons y rest ih =>
    obtain ⟨c, w⟩ := y
    unfold writeCell at h
    split at h
    · simpa using h
    · split at h
      · simp only [List.mem_cons] at h ⊢; tauto
      · simp only [List.mem_cons] at h ⊢; tauto

/-- A write keeps the canonical form. -/
theorem writeCell_sorted {m : List (Nat × α)} (h : CellsSorted m) (a : Nat) (v : α) : CellsSorted (writeCell m a v) := by
  induction m with
  | nil => simp [writeCell, CellsSorted]
  | cons y rest ih =>
    obtain ⟨c, w⟩ := y
    rw [CellsSorted, List.pairwise_cons] at h
    unfold writeCell
    split
    · rename_i hac
      refine List.pairwise_cons.2 ⟨fun x hx => ?_, List.pairwise_cons.2 h⟩
      rcases List.mem_cons.1 hx with rfl | hx
      · exact hac
      · exact Nat.lt_trans hac (h.1 x hx)
    · split
      · subst_vars; exact List.pairwise_cons.2 h
      · refine List.pairwise_cons.2 ⟨fun x hx => ?_, ih h.2⟩
        rcases mem_writeCell hx with rfl | hx
        · show c < a; omega
        · exact h.1 x hx

/-- A write below the bound keeps the bound. -/
theorem writeCell_below {m : List (Nat × α)} {bound a : Nat} (h : CellsBelow bound m) (ha : a < bound) (v : α) :
    CellsBelow bound (writeCell m a v) := by
  intro x hx
  rcases mem_writeCell hx with rfl | hx
  · exact ha
  · exact h x hx

theorem writeCells_sorted {m : List (Nat × α)} (h : CellsSorted m) (a : Nat) (vs : List α) :
    CellsSorted (writeCells m a vs) := by
  induction vs generalizing m a with
  | nil => exact h
  | cons v vs ih => exact ih (writeCell_sorted h a v) (a + 1)

theorem writeCells_below {m : List (Nat × α)} {bound a : Nat} {vs : List α} (h : CellsBelow bound m)
    (ha : a + vs.length ≤ bound) : CellsBelow bound (writeCells m a vs) := by
  induction vs generalizing m a with
  | nil => exact h
  | cons v vs ih =>
    simp only [List.length_cons] at ha
    exact ih (writeCell_below h (by omega) v) (by omega)

theorem writeCells_append (m : List (Nat × α)) (a : Nat) (xs ys : List α) :
    writeCells m a (xs ++ ys) = writeCells (writeCells m a xs) (a + xs.length) ys := by
  induction xs generalizing m a with
  | nil => simp [writeCells]
  | cons x xs ih => simp only [List.cons_append, writeCells, ih, List.length_cons]; congr 1; omega

/-- What a read gives after a run of writes: the written value inside the run, the old cell outside. -/
theorem lookupCell_writeCells (m : List (Nat × α)) (a b : Nat) (vs : List α) :
    lookupCell (writeCells m a vs) b =
      if a ≤ b ∧ b < a + vs.length then vs[b - a]? else lookupCell m b := by
  induction vs generalizing m a with
  | nil =>
    have h : ¬ (a ≤ b ∧ b < a + 0) := by omega
    simp only [writeCells, List.length_nil, if_neg h]
  | cons v vs ih =>
    simp only [writeCells, ih, List.length_cons, lookupCell_writeCell]
    rcases Nat.lt_trichotomy b a with h | h | h
    · rw [if_neg (by omega), if_neg (by omega), if_neg (by omega)]
    · subst h; rw [if_neg (by omega), if_pos rfl, if_pos (by omega)]; simp
    · have e : b - a = (b - (a + 1)) + 1 := by omega
      by_cases hb : b < a + 1 + vs.length
      · rw [if_pos (by omega), if_pos (by omega), e, List.getElem?_cons_succ]
      · rw [if_neg (by omega), if_neg (by omega), if_neg (by omega)]

/-- Every operation that writes a buffer or the result file keeps its canonical form. -/
theorem writeVbuf_wf {s : State} (h : Memory.wf s.vbuf) (off : Nat) (b : Byte) : Memory.wf (writeVbuf off b s).vbuf :=
  writeCell_sorted h off b

theorem writeTxbuf_wf {s : State} (h : Memory.wf s.txbuf) (off : Nat) (bytes : List Byte) :
    Memory.wf (writeTxbuf off bytes s).txbuf := writeCells_sorted h off bytes

theorem writeRxbuf_wf {s : State} (h : Memory.wf s.rxbuf) (off : Nat) (bytes : List Byte) :
    Memory.wf (writeRxbuf off bytes s).rxbuf := writeCells_sorted h off bytes

theorem writeRes_wf {s : State} (h : ResultFile.wf s.res) (i : Nat) (entries : List Result) :
    ResultFile.wf (writeRes i entries s).res := writeCells_sorted h i entries

theorem readTxbuf_writeTxbuf_in {s : State} {off k : Nat} {bytes : List Byte} (h₁ : off ≤ k) (h₂ : k < off + bytes.length) :
    some (readTxbuf (writeTxbuf off bytes s) k) = bytes[k - off]? := by
  have hk : k - off < bytes.length := by omega
  simp only [readTxbuf, writeTxbuf, lookupCell_writeCells, h₁, h₂, and_self, if_true]
  rw [List.getElem?_eq_getElem hk]; rfl

theorem readTxbuf_writeTxbuf_out {s : State} {off k : Nat} {bytes : List Byte} (h : k < off ∨ off + bytes.length ≤ k) :
    readTxbuf (writeTxbuf off bytes s) k = readTxbuf s k := by
  simp only [readTxbuf, writeTxbuf, lookupCell_writeCells]
  rw [if_neg (by omega)]

theorem readRxbuf_writeRxbuf_in {s : State} {off k : Nat} {bytes : List Byte} (h₁ : off ≤ k) (h₂ : k < off + bytes.length) :
    some (readRxbuf (writeRxbuf off bytes s) k) = bytes[k - off]? := by
  have hk : k - off < bytes.length := by omega
  simp only [readRxbuf, writeRxbuf, lookupCell_writeCells, h₁, h₂, and_self, if_true]
  rw [List.getElem?_eq_getElem hk]; rfl

theorem readRxbuf_writeRxbuf_out {s : State} {off k : Nat} {bytes : List Byte} (h : k < off ∨ off + bytes.length ≤ k) :
    readRxbuf (writeRxbuf off bytes s) k = readRxbuf s k := by
  simp only [readRxbuf, writeRxbuf, lookupCell_writeCells]
  rw [if_neg (by omega)]

theorem readRes_writeRes_in {s : State} {i k : Nat} {entries : List Result} (h₁ : i ≤ k) (h₂ : k < i + entries.length) :
    some (readRes (writeRes i entries s) k) = entries[k - i]? := by
  have hk : k - i < entries.length := by omega
  simp only [readRes, writeRes, lookupCell_writeCells, h₁, h₂, and_self, if_true]
  rw [List.getElem?_eq_getElem hk]; rfl

theorem readRes_writeRes_out {s : State} {i k : Nat} {entries : List Result} (h : k < i ∨ i + entries.length ≤ k) :
    readRes (writeRes i entries s) k = readRes s k := by
  simp only [readRes, writeRes, lookupCell_writeCells]
  rw [if_neg (by omega)]

theorem readVbuf_writeVbuf (s : State) (off k : Nat) (b : Byte) :
    readVbuf (writeVbuf off b s) k = if k = off then b else readVbuf s k := by
  simp only [readVbuf, writeVbuf, lookupCell_writeCell]
  split <;> rfl

theorem txBytes_length (s : State) (n : Nat) : (txBytes s n).length = n := by simp [txBytes]

/-- TXBUF[0, length) is a list of bytes exactly if it reads so, byte by byte. -/
theorem txBytes_eq {s : State} {bytes : List Byte} (h : ∀ k, k < bytes.length → some (readTxbuf s k) = bytes[k]?) :
    txBytes s bytes.length = bytes := by
  refine List.ext_getElem? fun k => ?_
  by_cases hk : k < bytes.length
  · simp [txBytes, List.getElem?_map, List.getElem?_range hk, h k hk]
  · rw [List.getElem?_eq_none (by simp [txBytes]; omega), List.getElem?_eq_none (by omega)]

end Sys2Proof.Machine
end

