-- ==== Sys2Proof/Laws/Operations.lean ====
section
/-! SUPPORT. The laws of issue, checks, completion and the shared operations: what each can do, said once. -/

namespace Sys2Proof.Machine

/-- What a passed issue check says (R134, R135, R137). -/
theorem issueCheck_ok {code : Byte} {s : State} {job : Job} (h : issueCheck code s = .ok job) :
    job = jobOf code s ∧ (∃ i, decodeByte .hostOp code = .ok i) ∧ 1 ≤ s.n.toNat ∧ s.n.toNat ≤ 64 ∧
      (codeIsMulti code = true → 1 ≤ s.m.toNat ∧ s.m.toNat ≤ s.mMax.toNat) := by
  unfold issueCheck at h
  split at h
  · cases h
  · rename_i i hi
    split_ifs at h with h₁ h₂
    cases h
    simp only [vectorLength, sampleCount, nMax] at h₁ h₂
    refine ⟨rfl, ⟨i, hi⟩, by omega, by omega, fun hm => ?_⟩
    simp only [hm, true_and] at h₂; omega

/-- When the issue check passes (R137). -/
theorem issueCheck_pass {code : Byte} {s : State} {i : Instr} (hi : decodeByte .hostOp code = .ok i)
    (h₁ : 1 ≤ s.n.toNat) (h₂ : s.n.toNat ≤ 64)
    (hm : codeIsMulti code = true → 1 ≤ s.m.toNat ∧ s.m.toNat ≤ s.mMax.toNat) :
    issueCheck code s = .ok (jobOf code s) := by
  unfold issueCheck
  rw [hi]
  simp only [vectorLength, sampleCount, nMax]
  rw [if_neg (by omega), if_neg]
  rintro ⟨h, h'⟩
  have := hm h; omega

/-- The check reads N, M and M_MAX only (R113). -/
theorem issueCheck_congr {code : Byte} {s t : State} (hn : t.n = s.n) (hm : t.m = s.m) (hc : t.mMax = s.mMax) :
    issueCheck code t = issueCheck code s := by
  simp only [issueCheck, jobOf, vectorLength, sampleCount, hn, hm, hc]

/-- The three ways a write to OP goes (R67, R130, R136, R137). -/
theorem startOperation_cases (code : Byte) (body : Job → State → State) (s : State) :
    (s.stState = .busy ∧ startOperation code body s = overrun s) ∨
    (s.stState ≠ .busy ∧ ∃ e, issueCheck code s = .error e ∧
      startOperation code body s = raiseError e (issued code s)) ∨
    (s.stState ≠ .busy ∧ ∃ job, issueCheck code s = .ok job ∧ startOperation code body s = body job (issued code s)) := by
  unfold startOperation
  split_ifs with hb
  · exact .inl ⟨hb, rfl⟩
  · cases h : issueCheck code s with
    | error e => exact .inr (.inl ⟨hb, e, rfl, rfl⟩)
    | ok job => exact .inr (.inr ⟨hb, job, rfl, rfl⟩)

theorem startOperation_busy {code : Byte} {body : Job → State → State} {s : State} (h : s.stState = .busy) :
    startOperation code body s = overrun s := by simp [startOperation, h]

theorem startOperation_error {code : Byte} {body : Job → State → State} {s : State} {e : ErrCode} (hb : s.stState ≠ .busy)
    (h : issueCheck code s = .error e) : startOperation code body s = raiseError e (issued code s) := by
  simp [startOperation, hb, h]

theorem startOperation_ok {code : Byte} {body : Job → State → State} {s : State} {job : Job} (hb : s.stState ≠ .busy)
    (h : issueCheck code s = .ok job) : startOperation code body s = body job (issued code s) := by
  simp [startOperation, hb, h]

/-- The body an operation runs once its checks passed, by instruction (R152, R155, R158, R172, R175, R196 to R198). -/
def operationBody : Instr → Job → State → State
  | .encLearn => fun job t => complete job (writeLearnFrame t)
  | .encClassify => fun job t => complete job (writeClassifyFrame t)
  | .encClassifyMulti => fun job t => complete job (writeMultiFrame t)
  | .decClassify => fun job t => complete job (writeClassifyResult t)
  | .decClassifyMulti => fun job t => complete job (writeMultiResults t)
  | .txnLearn => fun job t => enterExchange job (writeLearnFrame t)
  | .txnClassify => fun job t => enterExchange job (writeClassifyFrame t)
  | .txnClassifyMulti => fun job t => enterExchange job (writeMultiFrame t)
  | .learnCommand => fun _ t => t
  | .classifyCommand => fun _ t => t
  | .readDistance => fun _ t => t
  | .readCategory => fun _ t => t
  | .dummy => fun _ t => t

/-- A host operation is a write of its code to OP followed by its body. -/
theorem exec_hostOp {op : Instr} (h : op.format = .hostOp) (s : State) :
    exec op s = .next (startOperation (encodeByte op) (operationBody op) s) := by
  cases op <;> first | rfl | cases h

theorem decodeByte_hostOp_eq {b : Byte} {i : Instr} (h : decodeByte .hostOp b = .ok i) :
    i.format = .hostOp ∧ encodeByte i = b := by
  unfold decodeByte at h
  split at h
  · rename_i r hr
    cases h
    have hm := List.mem_of_find?_eq_some hr
    have hc := List.find?_some hr
    simp only [opcodeTable, List.mem_cons, List.not_mem_nil, or_false] at hm
    have hb : b &&& 0xFF = b := BitVec.and_allOnes (x := b)
    rcases hm with rfl | rfl | rfl | rfl | rfl | rfl | rfl | rfl | rfl | rfl | rfl | rfl | rfl <;>
      simp_all [TableRow.covers, Instr.format, encodeByte]
  · cases h

theorem decodeByte_encodeByte {op : Instr} (h : op.format = .hostOp) : decodeByte .hostOp (encodeByte op) = .ok op := by
  cases op <;> first | rfl | cases h

theorem codeIsMulti_encodeByte (op : Instr) :
    codeIsMulti (encodeByte op) = true ↔
      op = .encClassifyMulti ∨ op = .decClassifyMulti ∨ op = .txnClassifyMulti ∨ op = .readDistance := by
  cases op <;> decide

/-- Advancing writes no buffer (R102). -/
theorem advanceSlot_cases (job : Job) (i k : Nat) (s : State) :
    (k + 1 < job.stride ∧ advanceSlot job i k s = { s with major := .encode job i (k + 1) }) ∨
    (¬ k + 1 < job.stride ∧ i + 1 < job.samples ∧ advanceSlot job i k s = { s with major := .encode job (i + 1) 0 }) ∨
    (¬ k + 1 < job.stride ∧ ¬ i + 1 < job.samples ∧ codeHasExchange job.code = true ∧
      advanceSlot job i k s = enterExchange job s) ∨
    (¬ k + 1 < job.stride ∧ ¬ i + 1 < job.samples ∧ codeHasExchange job.code = false ∧
      advanceSlot job i k s = complete job s) := by
  unfold advanceSlot finishEncode
  split_ifs with h₁ h₂ h₃
  · exact .inl ⟨h₁, rfl⟩
  · exact .inr (.inl ⟨h₁, h₂, rfl⟩)
  · exact .inr (.inr (.inl ⟨h₁, h₂, h₃, rfl⟩))
  · exact .inr (.inr (.inr ⟨h₁, h₂, by simpa using h₃, rfl⟩))

/-- The job of an operation whose checks passed: L = M'·S', and M' is 1 or a legal M (R133, R137). -/
theorem job_of_issueCheck {code : Byte} {s : State} {job} (h : issueCheck code s = .ok job) :
   job.code = code ∧ job.stride = strideOf job.kind s.n.toNat ∧ job.length = job.samples * job.stride ∧ 1 ≤ job.samples ∧ job.samples ≤ max s.mMax.toNat 1 := by
  obtain ⟨rfl, -, h1, h2, h3⟩ := issueCheck_ok h
  refine ⟨rfl, rfl, rfl, ?_, ?_⟩
  · simp only [jobOf]; split
    · exact (h3 ‹_›).1
    · exact le_rfl
  · simp only [jobOf]; split
    · exact le_max_of_le_left (h3 ‹_›).2
    · exact le_max_right _ _

/-- A passed check keeps the frame and the results inside the buffers (R8, R12). -/
theorem job_fits {code : Byte} {s : State} {job} (h : issueCheck code s = .ok job) (hM : s.mMax ≠ 0) :
   job.length ≤ frameMax s ∧ job.samples ≤ resSize s := by
  obtain ⟨_, h1, h2, h3, h4⟩ := job_of_issueCheck h
  obtain ⟨-, -, h5, h6, -⟩ := issueCheck_ok h
  have hM' : 1 ≤ s.mMax.toNat := by
    rcases Nat.eq_zero_or_pos s.mMax.toNat with h | h
    · exact absurd (BitVec.eq_of_toNat_eq h) hM
    · exact h
  rw [max_eq_left hM'] at h4
  refine ⟨?_, h4⟩
  rw [h2, h1]; exact Nat.mul_le_mul h4 (strideOf_le _ h6)

/-- FRAME_MAX fits LEN (R12). -/
theorem frameMax_lt (s : State) : frameMax s < 2^32 := by
  have := s.mMax.isLt; unfold frameMax; simp only [strideOf, nMax]; omega

/-- LEN holds L exactly (R12, R31). -/
theorem len_of_job {job : Job} {s : State} (h : job.length ≤ frameMax s) : (BitVec.ofNat 32 job.length).toNat ≤ frameMax s := by
  rw [BitVec.toNat_ofNat, Nat.mod_eq_of_lt (lt_of_le_of_lt h (frameMax_lt s))]; exact h

/-- Slot (i, k) lies inside the frame (R41). -/
theorem slot_lt {job : Job} {i k : Nat} (h : job.length = job.samples * job.stride) (hi : i < job.samples) (hk : k < job.stride) : i * job.stride + k < job.length := by
  rw [h]; calc i * job.stride + k < i * job.stride + job.stride := by omega
       _ = (i+1) * job.stride := by rw [Nat.succ_mul]
       _ ≤ _ := Nat.mul_le_mul_right _ hi

/-- A decode operation has CLASSIFY samples (R110, R133). -/
theorem kind_of_decode {code : Byte} {s : State} {job} (h : issueCheck code s = .ok job) (hd : codeIsDecode code = true) : job.kind = .classify := by
  obtain ⟨rfl, ⟨i, hi⟩, -⟩ := issueCheck_ok h
  obtain ⟨hf, rfl⟩ := decodeByte_hostOp_eq hi
  cases i <;> first | (cases hf; done) | (exact absurd hd (by decide)) | rfl

/-- A failed check never reports NONE (R137). -/
theorem issueCheck_error_ne_none {code : Byte} {s : State} {e} (h : issueCheck code s = .error e) : e ≠ .none := by
  unfold issueCheck at h; split at h
  · cases h; simp
  · split_ifs at h <;> cases h <;> simp

end Sys2Proof.Machine
end

