-- ==== Sys2Proof/Laws/Machine.lean ====
section
/-! SUPPORT. The laws of the step: what a host access, a sequencer step and an input can do, said once. -/

namespace Sys2Proof.Machine

/-- A wire byte at a slot of its own is the encode step there (R102). -/
theorem exec_slotConstant {s : State} {job : Job} {i k : Nat} {wire : Instr} (hm : s.major = .encode job i k)
    (hw : slotConstant job.kind (vectorLength s) k = some wire) : exec wire s = .next (encodeStep job i k s) := by
  have key : ∀ b, emitConstant wire b s = .next (emitByte b job i k s) := by
    intro b; simp only [emitConstant, hm, hw, if_true]
  obtain ⟨p, hp, hc⟩ := Option.bind_eq_some_iff.1 hw
  have hs : slotByte job.kind s i k = some (phaseByte job.kind (vectorLength s) s.cat (vectorElement s i) p) := by
    simp [slotByte, frameByte, hp]
  simp only [encodeStep, hs]
  cases p <;> simp only [phaseConstant, Option.some.injEq, reduceCtorEq] at hc
  case cmd =>
    cases hk : job.kind <;> simp only [hk, Option.some.injEq] at hc <;> subst hc <;> exact key _
  all_goals subst hc; exact key _

/-- In ENCODE the sequencer makes the encode step of R102, whether or not its slot carries a wire constant. -/
theorem sequencerStep_encode {s : State} {job : Job} {i k : Nat} (hm : s.major = .encode job i k) :
    sequencerStep s = .next (encodeStep job i k s) := by
  unfold sequencerStep
  simp only [hm]
  split
  · exact exec_slotConstant hm ‹_›
  · rfl

theorem sequencerStep_decode {s : State} {job : Job} {i : Nat} (hm : s.major = .decode job i) :
    sequencerStep s = .next (decodeStep job i s) := by simp [sequencerStep, hm]

theorem sequencerStep_notBusy {s : State} (hm : s.major = .notBusy) : sequencerStep s = .next s := by
  simp [sequencerStep, hm]

theorem sequencerStep_exchange {s : State} {job : Job} (hm : s.major = .exchange job) : sequencerStep s = .next s := by
  simp [sequencerStep, hm]

/-- What one sequencer step can do (R40, R102, R103). -/
theorem sequencerStep_cases (s : State) :
    (∃ job i k, s.major = .encode job i k ∧ sequencerStep s = .next (encodeStep job i k s)) ∨
    (∃ job i, s.major = .decode job i ∧ sequencerStep s = .next (decodeStep job i s)) ∨
    ((s.major = .notBusy ∨ ∃ job, s.major = .exchange job) ∧ sequencerStep s = .next s) := by
  cases hm : s.major with
  | notBusy => exact .inr (.inr ⟨.inl rfl, sequencerStep_notBusy hm⟩)
  | exchange job => exact .inr (.inr ⟨.inr ⟨job, rfl⟩, sequencerStep_exchange hm⟩)
  | encode job i k => exact .inl ⟨job, i, k, rfl, sequencerStep_encode hm⟩
  | decode job i => exact .inr (.inl ⟨job, i, rfl, sequencerStep_decode hm⟩)

/-- A write to OP, run at once: its operation's body for an assigned code, BAD_OP for a reserved one (R130, R222). -/
theorem writeOp_eq (data : Word) (s : State) :
    ∃ body, (body = enterFirstMajor ∨ ∃ op, op.format = .hostOp ∧ encodeByte op = opCodeOf data ∧ body = operationBody op) ∧
      writeOp data s = .next (startOperation (opCodeOf data) body s) := by
  unfold writeOp
  cases h : decodeOpWord data with
  | error e => exact ⟨enterFirstMajor, .inl rfl, rfl⟩
  | ok op =>
    obtain ⟨hf, he⟩ := decodeByte_hostOp_eq h
    exact ⟨operationBody op, .inr ⟨op, hf, he, rfl⟩, by rw [← he]; exact exec_hostOp hf s⟩

/-- What a host write can do, given what a write to OP does (R27, R60 to R63, R67). -/
theorem hostWrite_cases (op : Word → State → Host.Outcome State Fault Refusal) (sp : Space) (off width : Nat) (data : Word)
    (s : State) :
    (sp = .reg ∧ width = 32 ∧ off = 0x04 ∧ hostWrite op sp off width data s = .next (writeStatus data s)) ∨
    (¬ (sp = .reg ∧ width = 32 ∧ off = 0x04) ∧
      ((s.stState = .busy ∧ hostWrite op sp off width data s = .next (overrun s)) ∨
       (s.stState ≠ .busy ∧
        ((sp = .reg ∧ width = 32 ∧ off = 0x00 ∧ hostWrite op sp off width data s = op data s) ∨
         (∃ n, hostWrite op sp off width data s = .next { s with n := n }) ∨
         (∃ m, hostWrite op sp off width data s = .next { s with m := m }) ∨
         (∃ c, hostWrite op sp off width data s = .next { s with cat := c }) ∨
         (sp = .vbuf ∧ width = 8 ∧ off < vbufSize s ∧
           hostWrite op sp off width data s = .next (writeVbuf off (data.extractLsb' 0 8) s)) ∨
         (sp = .rxbuf ∧ width = 8 ∧ off < frameMax s ∧
           hostWrite op sp off width data s = .next (writeRxbuf off [data.extractLsb' 0 8] s)) ∨
         hostWrite op sp off width data s = .next s)))) := by
  unfold hostWrite
  by_cases hs : sp = .reg ∧ width = 32 ∧ off = 0x04
  · rw [if_pos hs]; exact .inl ⟨hs.1, hs.2.1, hs.2.2, rfl⟩
  · rw [if_neg hs]
    refine .inr ⟨hs, ?_⟩
    by_cases hb : s.stState = .busy
    · rw [if_pos hb]; exact .inl ⟨hb, rfl⟩
    · rw [if_neg hb]
      refine .inr ⟨hb, ?_⟩
      cases sp <;> simp only [writeIdle]
      case reg =>
        split_ifs with hw
        · unfold writeRegister
          split_ifs with h₁ h₂ h₃ h₄
          · exact .inl ⟨by trivial, hw, h₁, rfl⟩
          · exact .inr (.inl ⟨_, rfl⟩)
          · exact .inr (.inr (.inl ⟨_, rfl⟩))
          · exact .inr (.inr (.inr (.inl ⟨_, rfl⟩)))
          · exact .inr (.inr (.inr (.inr (.inr (.inr rfl)))))
        · exact .inr (.inr (.inr (.inr (.inr (.inr rfl)))))
      case vbuf =>
        split_ifs with hw
        · exact .inr (.inr (.inr (.inr (.inl ⟨by trivial, hw.1, hw.2, rfl⟩))))
        · exact .inr (.inr (.inr (.inr (.inr (.inr rfl)))))
      case rxbuf =>
        split_ifs with hw
        · exact .inr (.inr (.inr (.inr (.inr (.inl ⟨by trivial, hw.1, hw.2, rfl⟩)))))
        · exact .inr (.inr (.inr (.inr (.inr (.inr rfl)))))
      all_goals exact .inr (.inr (.inr (.inr (.inr (.inr trivial)))))

/-- A read changes nothing but the returned word and the count of free values (R73). -/
theorem hostRead_eq (sp : Space) (off width : Nat) (s : State) :
    ∃ w d, hostRead sp off width s = { s with readData := w, draws := d } ∧ (s.stState ≠ .busy → d = s.draws) := by
  unfold hostRead
  split_ifs with h
  · exact ⟨_, _, rfl, fun hb => absurd h.1 hb⟩
  · exact ⟨_, s.draws, rfl, fun _ => rfl⟩

/-- The step takes the first input, or is a sequencer step where there is none. -/
theorem step_nil {s : State} (h : s.inputs = []) : step s = sequencerStep s := by simp [step, h]

theorem step_cons {s : State} {x : Input} {rest : List Input} (h : s.inputs = x :: rest) :
    step s = takeInput x { s with inputs := rest } := by simp [step, h]

/-- What the return of an exchange can do (R195, R201, R252). -/
theorem receiveAnswer_cases (call : Nat) (a : Answer) (s : State) :
    (∃ job, s.major = .exchange job ∧ call = s.calls.length ∧
      ((∃ rx, a = .ok rx ∧ receiveAnswer call a s = receiveOk job rx s) ∨
       (a = .fail ∧ receiveAnswer call a s = receiveFail job s))) ∨
    ((call ≠ s.calls.length ∨ ∀ job, s.major ≠ .exchange job) ∧ receiveAnswer call a s = s) := by
  unfold receiveAnswer
  cases hm : s.major with
  | exchange job =>
    by_cases hc : call = s.calls.length
    · refine .inl ⟨job, rfl, hc, ?_⟩
      cases a with
      | ok rx => exact .inl ⟨rx, rfl, by simp [hc]⟩
      | fail => exact .inr ⟨rfl, by simp [hc]⟩
    · exact .inr ⟨.inl hc, by simp [hc]⟩
  | notBusy => exact .inr ⟨.inr (by simp), rfl⟩
  | encode job i k => exact .inr ⟨.inr (by simp), rfl⟩
  | decode job i => exact .inr ⟨.inr (by simp), rfl⟩

/-- Running a machine for one step and then k more. -/
theorem run_succ (k : Nat) (s t : State) (h : step s = .next t) : core.run (k + 1) s = core.run k t := by
  have h' : core.step s = .next t := h
  simp only [Host.Core.run, h']

/-- The two ways a write to OP is taken, as one form. -/
def IssueBody (x : Word) (s : State) (body : Job → State → State) : Prop :=
  body = enterFirstMajor ∨
    ∃ op rest, op.format = .hostOp ∧ encodeByte op = opCodeOf x ∧ body = operationBody op ∧
      s.inputs = .host (.write .reg 0x00 32 x) :: rest

theorem step_write {s : State} {rest : List Input} {sp : Space} {off width : Nat} {data : Word}
    (h : s.inputs = .host (.write sp off width data) :: rest ∨ s.inputs = .hostOverlapped (.write sp off width data) :: rest) :
    (sp = .reg ∧ width = 32 ∧ off = 0x04 ∧ step s = .next (writeStatus data { s with inputs := rest })) ∨
    (¬ (sp = .reg ∧ width = 32 ∧ off = 0x04) ∧
      ((s.stState = .busy ∧ step s = .next (overrun { s with inputs := rest })) ∨
       (s.stState ≠ .busy ∧
        ((sp = .reg ∧ width = 32 ∧ off = 0x00 ∧
            ∃ body, IssueBody data s body ∧
              step s = .next (startOperation (opCodeOf data) body { s with inputs := rest })) ∨
         (∃ n, step s = .next { s with inputs := rest, n := n }) ∨
         (∃ m, step s = .next { s with inputs := rest, m := m }) ∨
         (∃ c, step s = .next { s with inputs := rest, cat := c }) ∨
         (sp = .vbuf ∧ width = 8 ∧ off < vbufSize s ∧
           step s = .next (writeVbuf off (data.extractLsb' 0 8) { s with inputs := rest })) ∨
         (sp = .rxbuf ∧ width = 8 ∧ off < frameMax s ∧
           step s = .next (writeRxbuf off [data.extractLsb' 0 8] { s with inputs := rest })) ∨
         step s = .next { s with inputs := rest })))) := by
  obtain ⟨op, hop, hs⟩ : ∃ op : Word → State → Host.Outcome State Fault Refusal,
      (off = 0x00 → sp = .reg → width = 32 → ∃ body, IssueBody data s body ∧
        op data { s with inputs := rest } = .next (startOperation (opCodeOf data) body { s with inputs := rest })) ∧
      step s = hostWrite op sp off width data { s with inputs := rest } := by
    rcases h with h | h
    · refine ⟨writeOp, ?_, step_cons h⟩
      rintro rfl rfl rfl
      obtain ⟨body, hb, he⟩ := writeOp_eq data { s with inputs := rest }
      exact ⟨body, hb.imp id fun ⟨op, hf, hc, hb⟩ => ⟨op, rest, hf, hc, hb, h⟩, he⟩
    · exact ⟨writeOpOverlapped, fun _ _ _ => ⟨_, .inl rfl, rfl⟩, step_cons h⟩
  rw [hs]
  rcases hostWrite_cases op sp off width data { s with inputs := rest } with h | ⟨hn, h | ⟨hb, ⟨h₁, h₂, h₃, h⟩ | h⟩⟩
  · exact .inl h
  · exact .inr ⟨hn, .inl h⟩
  · obtain ⟨body, hi, ho⟩ := hop h₃ h₁ h₂
    exact .inr ⟨hn, .inr ⟨hb, .inl ⟨h₁, h₂, h₃, body, hi, h.trans ho⟩⟩⟩
  · exact .inr ⟨hn, .inr ⟨hb, .inr h⟩⟩

theorem step_read {s : State} {rest : List Input} {sp : Space} {off width : Nat}
    (h : s.inputs = .host (.read sp off width) :: rest ∨ s.inputs = .hostOverlapped (.read sp off width) :: rest) :
    step s = .next (hostRead sp off width { s with inputs := rest }) := by
  rcases h with h | h <;> rw [step_cons h] <;> rfl

/-- Whether the sequencer moves: no input is left, or the first is a tick; `rest` is what stands then. -/
def SequencerTurn (s : State) (rest : List Input) : Prop := s.inputs = [] ∧ rest = [] ∨ s.inputs = .tick :: rest

/-- A step on which the sequencer moves is a sequencer step with the tick taken. -/
theorem step_turn {s : State} {rest : List Input} (h : SequencerTurn s rest) :
    step s = sequencerStep { s with inputs := rest } := by
  rcases h with ⟨h, rfl⟩ | h
  · rw [step_nil h, ← h]
  · exact step_cons h

theorem step_sequencer {s : State} {rest : List Input} (h : SequencerTurn s rest) :
    (∃ job i k, s.major = .encode job i k ∧ step s = .next (encodeStep job i k { s with inputs := rest })) ∨
    (∃ job i, s.major = .decode job i ∧ step s = .next (decodeStep job i { s with inputs := rest })) ∨
    ((s.major = .notBusy ∨ ∃ job, s.major = .exchange job) ∧ step s = .next { s with inputs := rest }) := by
  rw [step_turn h]
  exact sequencerStep_cases { s with inputs := rest }

/-- In ENCODE a step on which the sequencer moves is the encode step of R102. -/
theorem step_encode {s : State} {rest : List Input} (h : SequencerTurn s rest) {job : Job} {i k : Nat}
    (hm : s.major = .encode job i k) : step s = .next (encodeStep job i k { s with inputs := rest }) :=
  (step_turn h).trans (sequencerStep_encode (s := { s with inputs := rest }) hm)

/-- In DECODE a step on which the sequencer moves is the decode step of R103. -/
theorem step_decode {s : State} {rest : List Input} (h : SequencerTurn s rest) {job : Job} {i : Nat}
    (hm : s.major = .decode job i) : step s = .next (decodeStep job i { s with inputs := rest }) :=
  (step_turn h).trans (sequencerStep_decode (s := { s with inputs := rest }) hm)

/-- Everything a step can do, said once. -/
theorem step_cases (s : State) :
    (∃ rest, SequencerTurn s rest) ∨
    (∃ rest sp off width data,
      s.inputs = .host (.write sp off width data) :: rest ∨ s.inputs = .hostOverlapped (.write sp off width data) :: rest) ∨
    (∃ rest sp off width,
      s.inputs = .host (.read sp off width) :: rest ∨ s.inputs = .hostOverlapped (.read sp off width) :: rest) ∨
    (∃ rest call a, s.inputs = .answer call a :: rest ∧ step s = .next (receiveAnswer call a { s with inputs := rest })) ∨
    (∃ rest, s.inputs = .reset :: rest ∧ step s = .next (resetMachine { s with inputs := rest })) := by
  cases h : s.inputs with
  | nil => exact .inl ⟨[], .inl ⟨h, rfl⟩⟩
  | cons x rest =>
    cases x with
    | host a =>
      cases a with
      | write sp off w d => exact .inr (.inl ⟨rest, sp, off, w, d, .inl rfl⟩)
      | read sp off w => exact .inr (.inr (.inl ⟨rest, sp, off, w, .inl rfl⟩))
    | hostOverlapped a =>
      cases a with
      | write sp off w d => exact .inr (.inl ⟨rest, sp, off, w, d, .inr rfl⟩)
      | read sp off w => exact .inr (.inr (.inl ⟨rest, sp, off, w, .inr rfl⟩))
    | tick => exact .inl ⟨rest, .inr h⟩
    | answer c a => exact .inr (.inr (.inr (.inl ⟨rest, c, a, rfl, step_cons h⟩)))
    | reset => exact .inr (.inr (.inr (.inr ⟨rest, rfl, step_cons h⟩)))

/-- The fields a host operation may write once its checks passed; TXBUF only for ENC and TXN, RES only for DEC (R138, R151 to R198). -/
theorem operationBody_shape (op : Instr) (hf : op.format = .hostOp) (job : Job) (s : State) :
  ∃ tx rs ln ss se mj ca, operationBody op job (issued (encodeByte op) s) = { s with opCode := encodeByte op, txbuf := tx, res := rs, len := ln, stState := ss, stErr := se, major := mj, calls := ca } ∧
   (tx ≠ s.txbuf → op ≠ .decClassify ∧ op ≠ .decClassifyMulti) ∧ (rs ≠ s.res → op = .decClassify ∨ op = .decClassifyMulti) := by
  cases op <;> first | (cases hf; done) | exact ⟨_, _, _, _, _, _, _, rfl, fun _ => ⟨nofun, nofun⟩, fun h => absurd rfl h⟩ | exact ⟨_, _, _, _, _, _, _, rfl, fun h => absurd rfl h, fun _ => by simp⟩

/-- The fields a write to OP may change, and when it changes a buffer (R130 to R137). -/
theorem startOperation_shape (x : Word) (s : State) (body) (h : IssueBody x s body) (rest : List Input) :
  ∃ cd tx rs ln ss se mj ca ov, startOperation (opCodeOf x) body { s with inputs := rest } = { s with inputs := rest, ovr := ov, opCode := cd, txbuf := tx, res := rs, len := ln, stState := ss, stErr := se, major := mj, calls := ca } ∧
   (tx ≠ s.txbuf → s.stState ≠ .busy ∧ ∃ op r, decodeOpWord x = .ok op ∧ s.inputs = .host (.write .reg 0x00 32 x) :: r ∧ op ≠ .decClassify ∧ op ≠ .decClassifyMulti) ∧
   (rs ≠ s.res → s.stState ≠ .busy ∧ ∃ op r, decodeOpWord x = .ok op ∧ s.inputs = .host (.write .reg 0x00 32 x) :: r ∧ (op = .decClassify ∨ op = .decClassifyMulti)) := by
  rcases startOperation_cases (opCodeOf x) body { s with inputs := rest } with ⟨hb, e⟩ | ⟨hb, er, hc, e⟩ | ⟨hb, job, hc, e⟩
  · exact ⟨_, _, _, _, _, _, _, _, _, e, fun h => absurd rfl h, fun h => absurd rfl h⟩
  · exact ⟨_, _, _, _, _, _, _, _, _, e, fun h => absurd rfl h, fun h => absurd rfl h⟩
  · rcases h with rfl | ⟨op, r, hf, hcode, rfl, hin⟩
    · unfold enterFirstMajor at e
      split at e
      · exact ⟨_, _, _, _, _, _, _, _, _, e, fun h => absurd rfl h, fun h => absurd rfl h⟩
      · exact ⟨_, _, _, _, _, _, _, _, _, e, fun h => absurd rfl h, fun h => absurd rfl h⟩
    · obtain ⟨tx, rs, ln, ss, se, mj, ca, he, h1, h2⟩ := operationBody_shape op hf job { s with inputs := rest }
      rw [hcode] at he
      have hd : decodeOpWord x = .ok op := by unfold decodeOpWord; rw [← hcode]; exact decodeByte_encodeByte hf
      exact ⟨opCodeOf x, tx, rs, ln, ss, se, mj, ca, s.ovr, e.trans he, fun h => ⟨hb, op, r, hd, hin, h1 h⟩, fun h => ⟨hb, op, r, hd, hin, h2 h⟩⟩

/-- The fields an encode step may write (R102). -/
theorem encodeStep_shape (job i k) (s : State) : ∃ tx mj ca ln se ss, encodeStep job i k s = { s with txbuf := tx, major := mj, calls := ca, len := ln, stErr := se, stState := ss } := by
  unfold encodeStep emitByte
  split
  · rcases advanceSlot_cases job i k (writeTxbuf (i * job.stride + k) [‹_›] s) with ⟨_, e⟩ | ⟨_, _, e⟩ | ⟨_, _, _, e⟩ | ⟨_, _, _, e⟩ <;> rw [e] <;> exact ⟨_, _, _, _, _, _, rfl⟩
  · rcases advanceSlot_cases job i k s with ⟨_, e⟩ | ⟨_, _, e⟩ | ⟨_, _, _, e⟩ | ⟨_, _, _, e⟩ <;> rw [e] <;> exact ⟨_, _, _, _, _, _, rfl⟩

/-- The fields a decode step may write (R103). -/
theorem decodeStep_shape (job i) (s : State) : ∃ rs mj ln se ss, decodeStep job i s = { s with res := rs, major := mj, len := ln, stErr := se, stState := ss } := by
  unfold decodeStep; dsimp only; split
  · exact ⟨_, _, _, _, _, rfl⟩
  · exact ⟨_, _, _, _, _, rfl⟩

/-- The fields the return of an exchange may write, and when it writes RXBUF (R195, R201). -/
theorem receiveAnswer_shape (c a) (s : State) : ∃ rx dr mj ln se ss, receiveAnswer c a s = { s with rxbuf := rx, draws := dr, major := mj, len := ln, stErr := se, stState := ss } ∧
   (rx ≠ s.rxbuf → ∃ job, s.major = .exchange job ∧ c = s.calls.length) := by
  rcases receiveAnswer_cases c a s with ⟨job, hm, hc, ⟨rx, rfl, e⟩ | ⟨rfl, e⟩⟩ | ⟨_, e⟩
  · rw [e]; unfold receiveOk finishExchange; split <;> exact ⟨_, _, _, _, _, _, rfl, fun _ => ⟨job, hm, hc⟩⟩
  · rw [e]; exact ⟨_, _, _, _, _, _, rfl, fun _ => ⟨job, hm, hc⟩⟩
  · rw [e]; exact ⟨_, _, _, _, _, _, rfl, fun h => absurd rfl h⟩

/-- Every slot of the frame has its byte (R100). -/
theorem slotByte_some {kind} {s : State} {i k} (h : k < strideOf kind s.n.toNat) : ∃ b, slotByte kind s i k = some b :=
  Option.isSome_iff_exists.1 ((frameByte_isSome _ _ _ _ _).2 h)

/-- The encode step at a slot of the frame (R102). -/
theorem encodeStep_some {job i k} {s : State} {b} (h : slotByte job.kind s i k = some b) :
  encodeStep job i k s = advanceSlot job i k (writeTxbuf (i * job.stride + k) [b] s) := by simp only [encodeStep, h, emitByte]

/-- What follows ENCODE does not depend on the slot counter. -/
theorem finishEncode_major (job) (s : State) (m) : finishEncode job { s with major := m } = finishEncode job s := by
  unfold finishEncode; split <;> rfl

/-- The sequencer alone, from slot (i, k) to the end of ENCODE: the bytes of the slots left, then what follows ENCODE (R102). -/
theorem run_encode (job : Job) (d : Nat) : ∀ (s : State) (i k : Nat), s.inputs = [] → s.major = .encode job i k →
   job.stride = strideOf job.kind s.n.toNat → job.length = job.samples * job.stride → i < job.samples → k < job.stride →
   d + (i * job.stride + k) = job.length →
   ∃ bytes : List Byte, bytes.length = d ∧
     (∀ j, j < d → bytes[j]? = slotByte job.kind s ((i * job.stride + k + j) / job.stride) ((i * job.stride + k + j) % job.stride)) ∧
     core.run d s = .next (finishEncode job (writeTxbuf (i * job.stride + k) bytes s)) := by
  induction d with
  | zero =>
    intro s i k _ _ _ hl hi hk hd
    have := slot_lt hl hi hk; omega
  | succ d ih =>
    intro s i k hin hm hs hl hi hk hd
    obtain ⟨b, hb⟩ := slotByte_some (s := s) (i := i) (hs ▸ hk)
    have hst : step s = .next (advanceSlot job i k (writeTxbuf (i * job.stride + k) [b] s)) := by
      rw [step_nil hin, sequencerStep_encode hm, encodeStep_some hb]
    have hdiv : (i * job.stride + k) / job.stride = i ∧ (i * job.stride + k) % job.stride = k := by
      have : 0 < job.stride := by omega
      constructor
      · rw [Nat.mul_comm, Nat.mul_add_div this, Nat.div_eq_of_lt hk]; omega
      · rw [Nat.mul_comm, Nat.mul_add_mod, Nat.mod_eq_of_lt hk]
    have cont : ∀ i' k', i' * job.stride + k' = i * job.stride + k + 1 → i' < job.samples → k' < job.stride →
        advanceSlot job i k (writeTxbuf (i * job.stride + k) [b] s) = { writeTxbuf (i * job.stride + k) [b] s with major := .encode job i' k' } →
        ∃ bytes : List Byte, bytes.length = d + 1 ∧
          (∀ j, j < d + 1 → bytes[j]? = slotByte job.kind s ((i * job.stride + k + j) / job.stride) ((i * job.stride + k + j) % job.stride)) ∧
          core.run (d + 1) s = .next (finishEncode job (writeTxbuf (i * job.stride + k) bytes s)) := by
      intro i' k' e hi' hk' ha
      rw [ha] at hst
      obtain ⟨bs, h1, h2, h3⟩ := ih { writeTxbuf (i * job.stride + k) [b] s with major := .encode job i' k' } i' k' hin rfl hs hl hi' hk' (by omega)
      refine ⟨b :: bs, by simp [h1], ?_, ?_⟩
      · intro j hj
        cases j with
        | zero => simp [hdiv, hb]
        | succ j => 
          rw [List.getElem?_cons_succ, h2 j (by omega), e]
          have : i * job.stride + k + (j + 1) = i * job.stride + k + 1 + j := by omega
          rw [this]; rfl
      · rw [run_succ _ _ _ hst, h3, e]
        exact congrArg Host.Outcome.next (finishEncode_major job (writeTxbuf (i * job.stride + k) (b :: bs) s) _)
    rcases advanceSlot_cases job i k (writeTxbuf (i * job.stride + k) [b] s) with ⟨a, e⟩ | ⟨a, c, e⟩ | ⟨a, c, x, e⟩ | ⟨a, c, x, e⟩
    · exact cont i (k+1) (by omega) hi a e
    · exact cont (i+1) 0 (by rw [Nat.succ_mul]; omega) c (by omega) e
    all_goals
      have hd0 : d = 0 := by
        have : i + 1 = job.samples := by omega
        rw [← this, Nat.succ_mul] at hl; omega
      subst hd0
      refine ⟨[b], rfl, ?_, ?_⟩
      · intro j hj; have : j = 0 := by omega
        subst this; simp [hdiv, hb]
      · rw [run_succ _ _ _ hst, e]; unfold finishEncode; rw [x]; rfl

/-- The sequencer alone, from entry i to the end of DECODE (R103). -/
theorem run_decode (job : Job) (d : Nat) : ∀ (s : State) (i : Nat), s.inputs = [] → s.major = .decode job i → i < job.samples → d + i = job.samples →
   core.run d s = .next (complete job (writeRes i ((List.range d).map fun j => sampleResult job s (i + j)) s)) := by
  induction d with
  | zero => intro s i _ _ hi hd; omega
  | succ d ih =>
    intro s i hin hm hi hd
    have hst : step s = .next (decodeStep job i s) := by rw [step_nil hin, sequencerStep_decode hm]
    rw [run_succ _ _ _ hst]
    unfold decodeStep; dsimp only
    split
    · rename_i h
      rw [ih { writeRes i [sampleResult job s i] s with major := .decode job (i + 1) } (i+1) hin rfl h (by omega)]
      congr 1
      rw [List.range_succ_eq_map]
      simp only [List.map_cons, List.map_map, complete, writeRes, writeCells, Nat.add_zero]
      congr 1
      congr 1
      apply List.map_congr_left; intro j _
      simp only [Function.comp]
      rw [show i + (j+1) = i + 1 + j by omega]; rfl
    · have : d = 0 := by omega
      subst this; rfl

end Sys2Proof.Machine
end

