-- ==== Sys2Proof/Laws/PerInstr.lean ====
section
/-! SUPPORT. What holds of every instruction of the opcode table as syntax, case by case: its byte decodes, in its own format
alone, to itself. -/

namespace Sys2Proof.Laws.RoundTrip

/-- An instruction's byte decodes to the instruction in its own format, in no other format to another instruction, and the
table word of the byte is the instruction. -/
def Statement (i : Instr) : Prop :=
  decodeByte i.format (encodeByte i) = .ok i ∧
  (∀ f j, decodeByte f (encodeByte i) = .ok j → j = i) ∧
  decodeTableWord 8 (encodeByte i).toNat = some i ∧
  (encode i).length = 1

/-- The statement, from the two decodings of the byte. -/
theorem of_decodings {i : Instr} (h₁ : decodeByte i.format (encodeByte i) = .ok i)
    (h₂ : ∀ f, f ≠ i.format → ∃ e, decodeByte f (encodeByte i) = .error e)
    (h₃ : decodeTableWord 8 (encodeByte i).toNat = some i) : Statement i := by
  refine ⟨h₁, fun f j hj => ?_, h₃, rfl⟩
  by_cases hf : f = i.format
  · subst hf; rw [h₁] at hj; cases hj; rfl
  · obtain ⟨e, he⟩ := h₂ f hf; rw [he] at hj; cases hj

theorem encLearn : Statement .encLearn :=
  of_decodings rfl (by intro f hf; cases f <;> first | exact absurd rfl hf | exact ⟨_, rfl⟩) rfl

theorem encClassify : Statement .encClassify :=
  of_decodings rfl (by intro f hf; cases f <;> first | exact absurd rfl hf | exact ⟨_, rfl⟩) rfl

theorem encClassifyMulti : Statement .encClassifyMulti :=
  of_decodings rfl (by intro f hf; cases f <;> first | exact absurd rfl hf | exact ⟨_, rfl⟩) rfl

theorem decClassify : Statement .decClassify :=
  of_decodings rfl (by intro f hf; cases f <;> first | exact absurd rfl hf | exact ⟨_, rfl⟩) rfl

theorem decClassifyMulti : Statement .decClassifyMulti :=
  of_decodings rfl (by intro f hf; cases f <;> first | exact absurd rfl hf | exact ⟨_, rfl⟩) rfl

theorem txnLearn : Statement .txnLearn :=
  of_decodings rfl (by intro f hf; cases f <;> first | exact absurd rfl hf | exact ⟨_, rfl⟩) rfl

theorem txnClassify : Statement .txnClassify :=
  of_decodings rfl (by intro f hf; cases f <;> first | exact absurd rfl hf | exact ⟨_, rfl⟩) rfl

theorem txnClassifyMulti : Statement .txnClassifyMulti :=
  of_decodings rfl (by intro f hf; cases f <;> first | exact absurd rfl hf | exact ⟨_, rfl⟩) rfl

theorem learnCommand : Statement .learnCommand :=
  of_decodings rfl (by intro f hf; cases f <;> first | exact absurd rfl hf | exact ⟨_, rfl⟩) rfl

theorem classifyCommand : Statement .classifyCommand :=
  of_decodings rfl (by intro f hf; cases f <;> first | exact absurd rfl hf | exact ⟨_, rfl⟩) rfl

theorem readDistance : Statement .readDistance :=
  of_decodings rfl (by intro f hf; cases f <;> first | exact absurd rfl hf | exact ⟨_, rfl⟩) rfl

theorem readCategory : Statement .readCategory :=
  of_decodings rfl (by intro f hf; cases f <;> first | exact absurd rfl hf | exact ⟨_, rfl⟩) rfl

theorem dummy : Statement .dummy :=
  of_decodings rfl (by intro f hf; cases f <;> first | exact absurd rfl hf | exact ⟨_, rfl⟩) rfl

end Sys2Proof.Laws.RoundTrip
end

