-- ==== Sys2Proof/Laws/State.lean ====
section
/-! SUPPORT. One lemma per field per named update of State, and one per read a named update leaves alone, so that no later proof
unfolds a record update. -/

namespace Sys2Proof.Machine

@[simp] theorem overrun_opCode (s : State) : (overrun s).opCode = s.opCode := rfl
@[simp] theorem overrun_stState (s : State) : (overrun s).stState = s.stState := rfl
@[simp] theorem overrun_stErr (s : State) : (overrun s).stErr = s.stErr := rfl
@[simp] theorem overrun_ovr (s : State) : (overrun s).ovr = true := rfl
@[simp] theorem overrun_n (s : State) : (overrun s).n = s.n := rfl
@[simp] theorem overrun_m (s : State) : (overrun s).m = s.m := rfl
@[simp] theorem overrun_cat (s : State) : (overrun s).cat = s.cat := rfl
@[simp] theorem overrun_len (s : State) : (overrun s).len = s.len := rfl
@[simp] theorem overrun_mMax (s : State) : (overrun s).mMax = s.mMax := rfl
@[simp] theorem overrun_vbuf (s : State) : (overrun s).vbuf = s.vbuf := rfl
@[simp] theorem overrun_txbuf (s : State) : (overrun s).txbuf = s.txbuf := rfl
@[simp] theorem overrun_rxbuf (s : State) : (overrun s).rxbuf = s.rxbuf := rfl
@[simp] theorem overrun_res (s : State) : (overrun s).res = s.res := rfl
@[simp] theorem overrun_major (s : State) : (overrun s).major = s.major := rfl
@[simp] theorem overrun_inputs (s : State) : (overrun s).inputs = s.inputs := rfl
@[simp] theorem overrun_calls (s : State) : (overrun s).calls = s.calls := rfl
@[simp] theorem overrun_readData (s : State) : (overrun s).readData = s.readData := rfl
@[simp] theorem overrun_draws (s : State) : (overrun s).draws = s.draws := rfl
@[simp] theorem overrun_epoch (s : State) : (overrun s).epoch = s.epoch := rfl

@[simp] theorem readVbuf_overrun (s : State) (off : Nat) : readVbuf (overrun s) off = readVbuf s off := rfl
@[simp] theorem readTxbuf_overrun (s : State) (off : Nat) : readTxbuf (overrun s) off = readTxbuf s off := rfl
@[simp] theorem readRxbuf_overrun (s : State) (off : Nat) : readRxbuf (overrun s) off = readRxbuf s off := rfl
@[simp] theorem readRes_overrun (s : State) (k : Nat) : readRes (overrun s) k = readRes s k := rfl

@[simp] theorem issued_opCode (code : Byte) (s : State) : (issued code s).opCode = code := rfl
@[simp] theorem issued_stState (code : Byte) (s : State) : (issued code s).stState = .busy := rfl
@[simp] theorem issued_stErr (code : Byte) (s : State) : (issued code s).stErr = .none := rfl
@[simp] theorem issued_ovr (code : Byte) (s : State) : (issued code s).ovr = s.ovr := rfl
@[simp] theorem issued_n (code : Byte) (s : State) : (issued code s).n = s.n := rfl
@[simp] theorem issued_m (code : Byte) (s : State) : (issued code s).m = s.m := rfl
@[simp] theorem issued_cat (code : Byte) (s : State) : (issued code s).cat = s.cat := rfl
@[simp] theorem issued_len (code : Byte) (s : State) : (issued code s).len = s.len := rfl
@[simp] theorem issued_mMax (code : Byte) (s : State) : (issued code s).mMax = s.mMax := rfl
@[simp] theorem issued_vbuf (code : Byte) (s : State) : (issued code s).vbuf = s.vbuf := rfl
@[simp] theorem issued_txbuf (code : Byte) (s : State) : (issued code s).txbuf = s.txbuf := rfl
@[simp] theorem issued_rxbuf (code : Byte) (s : State) : (issued code s).rxbuf = s.rxbuf := rfl
@[simp] theorem issued_res (code : Byte) (s : State) : (issued code s).res = s.res := rfl
@[simp] theorem issued_major (code : Byte) (s : State) : (issued code s).major = s.major := rfl
@[simp] theorem issued_inputs (code : Byte) (s : State) : (issued code s).inputs = s.inputs := rfl
@[simp] theorem issued_calls (code : Byte) (s : State) : (issued code s).calls = s.calls := rfl
@[simp] theorem issued_readData (code : Byte) (s : State) : (issued code s).readData = s.readData := rfl
@[simp] theorem issued_draws (code : Byte) (s : State) : (issued code s).draws = s.draws := rfl
@[simp] theorem issued_epoch (code : Byte) (s : State) : (issued code s).epoch = s.epoch := rfl

@[simp] theorem readVbuf_issued (code : Byte) (s : State) (off : Nat) : readVbuf (issued code s) off = readVbuf s off := rfl
@[simp] theorem readTxbuf_issued (code : Byte) (s : State) (off : Nat) : readTxbuf (issued code s) off = readTxbuf s off := rfl
@[simp] theorem readRxbuf_issued (code : Byte) (s : State) (off : Nat) : readRxbuf (issued code s) off = readRxbuf s off := rfl
@[simp] theorem readRes_issued (code : Byte) (s : State) (k : Nat) : readRes (issued code s) k = readRes s k := rfl

@[simp] theorem raiseError_opCode (e : ErrCode) (s : State) : (raiseError e s).opCode = s.opCode := rfl
@[simp] theorem raiseError_stState (e : ErrCode) (s : State) : (raiseError e s).stState = .error := rfl
@[simp] theorem raiseError_stErr (e : ErrCode) (s : State) : (raiseError e s).stErr = e := rfl
@[simp] theorem raiseError_ovr (e : ErrCode) (s : State) : (raiseError e s).ovr = s.ovr := rfl
@[simp] theorem raiseError_n (e : ErrCode) (s : State) : (raiseError e s).n = s.n := rfl
@[simp] theorem raiseError_m (e : ErrCode) (s : State) : (raiseError e s).m = s.m := rfl
@[simp] theorem raiseError_cat (e : ErrCode) (s : State) : (raiseError e s).cat = s.cat := rfl
@[simp] theorem raiseError_len (e : ErrCode) (s : State) : (raiseError e s).len = s.len := rfl
@[simp] theorem raiseError_mMax (e : ErrCode) (s : State) : (raiseError e s).mMax = s.mMax := rfl
@[simp] theorem raiseError_vbuf (e : ErrCode) (s : State) : (raiseError e s).vbuf = s.vbuf := rfl
@[simp] theorem raiseError_txbuf (e : ErrCode) (s : State) : (raiseError e s).txbuf = s.txbuf := rfl
@[simp] theorem raiseError_rxbuf (e : ErrCode) (s : State) : (raiseError e s).rxbuf = s.rxbuf := rfl
@[simp] theorem raiseError_res (e : ErrCode) (s : State) : (raiseError e s).res = s.res := rfl
@[simp] theorem raiseError_major (e : ErrCode) (s : State) : (raiseError e s).major = .notBusy := rfl
@[simp] theorem raiseError_inputs (e : ErrCode) (s : State) : (raiseError e s).inputs = s.inputs := rfl
@[simp] theorem raiseError_calls (e : ErrCode) (s : State) : (raiseError e s).calls = s.calls := rfl
@[simp] theorem raiseError_readData (e : ErrCode) (s : State) : (raiseError e s).readData = s.readData := rfl
@[simp] theorem raiseError_draws (e : ErrCode) (s : State) : (raiseError e s).draws = s.draws := rfl
@[simp] theorem raiseError_epoch (e : ErrCode) (s : State) : (raiseError e s).epoch = s.epoch := rfl

@[simp] theorem readVbuf_raiseError (e : ErrCode) (s : State) (off : Nat) : readVbuf (raiseError e s) off = readVbuf s off := rfl
@[simp] theorem readTxbuf_raiseError (e : ErrCode) (s : State) (off : Nat) : readTxbuf (raiseError e s) off = readTxbuf s off := rfl
@[simp] theorem readRxbuf_raiseError (e : ErrCode) (s : State) (off : Nat) : readRxbuf (raiseError e s) off = readRxbuf s off := rfl
@[simp] theorem readRes_raiseError (e : ErrCode) (s : State) (k : Nat) : readRes (raiseError e s) k = readRes s k := rfl

@[simp] theorem complete_opCode (job : Job) (s : State) : (complete job s).opCode = s.opCode := rfl
@[simp] theorem complete_stState (job : Job) (s : State) : (complete job s).stState = .done := rfl
@[simp] theorem complete_stErr (job : Job) (s : State) : (complete job s).stErr = .none := rfl
@[simp] theorem complete_ovr (job : Job) (s : State) : (complete job s).ovr = s.ovr := rfl
@[simp] theorem complete_n (job : Job) (s : State) : (complete job s).n = s.n := rfl
@[simp] theorem complete_m (job : Job) (s : State) : (complete job s).m = s.m := rfl
@[simp] theorem complete_cat (job : Job) (s : State) : (complete job s).cat = s.cat := rfl
@[simp] theorem complete_len (job : Job) (s : State) : (complete job s).len = BitVec.ofNat 32 job.length := rfl
@[simp] theorem complete_mMax (job : Job) (s : State) : (complete job s).mMax = s.mMax := rfl
@[simp] theorem complete_vbuf (job : Job) (s : State) : (complete job s).vbuf = s.vbuf := rfl
@[simp] theorem complete_txbuf (job : Job) (s : State) : (complete job s).txbuf = s.txbuf := rfl
@[simp] theorem complete_rxbuf (job : Job) (s : State) : (complete job s).rxbuf = s.rxbuf := rfl
@[simp] theorem complete_res (job : Job) (s : State) : (complete job s).res = s.res := rfl
@[simp] theorem complete_major (job : Job) (s : State) : (complete job s).major = .notBusy := rfl
@[simp] theorem complete_inputs (job : Job) (s : State) : (complete job s).inputs = s.inputs := rfl
@[simp] theorem complete_calls (job : Job) (s : State) : (complete job s).calls = s.calls := rfl
@[simp] theorem complete_readData (job : Job) (s : State) : (complete job s).readData = s.readData := rfl
@[simp] theorem complete_draws (job : Job) (s : State) : (complete job s).draws = s.draws := rfl
@[simp] theorem complete_epoch (job : Job) (s : State) : (complete job s).epoch = s.epoch := rfl

@[simp] theorem readVbuf_complete (job : Job) (s : State) (off : Nat) : readVbuf (complete job s) off = readVbuf s off := rfl
@[simp] theorem readTxbuf_complete (job : Job) (s : State) (off : Nat) : readTxbuf (complete job s) off = readTxbuf s off := rfl
@[simp] theorem readRxbuf_complete (job : Job) (s : State) (off : Nat) : readRxbuf (complete job s) off = readRxbuf s off := rfl
@[simp] theorem readRes_complete (job : Job) (s : State) (k : Nat) : readRes (complete job s) k = readRes s k := rfl

@[simp] theorem enterExchange_opCode (job : Job) (s : State) : (enterExchange job s).opCode = s.opCode := rfl
@[simp] theorem enterExchange_stState (job : Job) (s : State) : (enterExchange job s).stState = s.stState := rfl
@[simp] theorem enterExchange_stErr (job : Job) (s : State) : (enterExchange job s).stErr = s.stErr := rfl
@[simp] theorem enterExchange_ovr (job : Job) (s : State) : (enterExchange job s).ovr = s.ovr := rfl
@[simp] theorem enterExchange_n (job : Job) (s : State) : (enterExchange job s).n = s.n := rfl
@[simp] theorem enterExchange_m (job : Job) (s : State) : (enterExchange job s).m = s.m := rfl
@[simp] theorem enterExchange_cat (job : Job) (s : State) : (enterExchange job s).cat = s.cat := rfl
@[simp] theorem enterExchange_len (job : Job) (s : State) : (enterExchange job s).len = s.len := rfl
@[simp] theorem enterExchange_mMax (job : Job) (s : State) : (enterExchange job s).mMax = s.mMax := rfl
@[simp] theorem enterExchange_vbuf (job : Job) (s : State) : (enterExchange job s).vbuf = s.vbuf := rfl
@[simp] theorem enterExchange_txbuf (job : Job) (s : State) : (enterExchange job s).txbuf = s.txbuf := rfl
@[simp] theorem enterExchange_rxbuf (job : Job) (s : State) : (enterExchange job s).rxbuf = s.rxbuf := rfl
@[simp] theorem enterExchange_res (job : Job) (s : State) : (enterExchange job s).res = s.res := rfl
@[simp] theorem enterExchange_major (job : Job) (s : State) : (enterExchange job s).major = .exchange job := rfl
@[simp] theorem enterExchange_inputs (job : Job) (s : State) : (enterExchange job s).inputs = s.inputs := rfl
@[simp] theorem enterExchange_calls (job : Job) (s : State) : (enterExchange job s).calls = s.calls ++ [{ length := job.length, tx := txBytes s job.length }] := rfl
@[simp] theorem enterExchange_readData (job : Job) (s : State) : (enterExchange job s).readData = s.readData := rfl
@[simp] theorem enterExchange_draws (job : Job) (s : State) : (enterExchange job s).draws = s.draws := rfl
@[simp] theorem enterExchange_epoch (job : Job) (s : State) : (enterExchange job s).epoch = s.epoch := rfl

@[simp] theorem readVbuf_enterExchange (job : Job) (s : State) (off : Nat) : readVbuf (enterExchange job s) off = readVbuf s off := rfl
@[simp] theorem readTxbuf_enterExchange (job : Job) (s : State) (off : Nat) : readTxbuf (enterExchange job s) off = readTxbuf s off := rfl
@[simp] theorem readRxbuf_enterExchange (job : Job) (s : State) (off : Nat) : readRxbuf (enterExchange job s) off = readRxbuf s off := rfl
@[simp] theorem readRes_enterExchange (job : Job) (s : State) (k : Nat) : readRes (enterExchange job s) k = readRes s k := rfl

@[simp] theorem writeVbuf_opCode (off : Nat) (b : Byte) (s : State) : (writeVbuf off b s).opCode = s.opCode := rfl
@[simp] theorem writeVbuf_stState (off : Nat) (b : Byte) (s : State) : (writeVbuf off b s).stState = s.stState := rfl
@[simp] theorem writeVbuf_stErr (off : Nat) (b : Byte) (s : State) : (writeVbuf off b s).stErr = s.stErr := rfl
@[simp] theorem writeVbuf_ovr (off : Nat) (b : Byte) (s : State) : (writeVbuf off b s).ovr = s.ovr := rfl
@[simp] theorem writeVbuf_n (off : Nat) (b : Byte) (s : State) : (writeVbuf off b s).n = s.n := rfl
@[simp] theorem writeVbuf_m (off : Nat) (b : Byte) (s : State) : (writeVbuf off b s).m = s.m := rfl
@[simp] theorem writeVbuf_cat (off : Nat) (b : Byte) (s : State) : (writeVbuf off b s).cat = s.cat := rfl
@[simp] theorem writeVbuf_len (off : Nat) (b : Byte) (s : State) : (writeVbuf off b s).len = s.len := rfl
@[simp] theorem writeVbuf_mMax (off : Nat) (b : Byte) (s : State) : (writeVbuf off b s).mMax = s.mMax := rfl
@[simp] theorem writeVbuf_vbuf (off : Nat) (b : Byte) (s : State) : (writeVbuf off b s).vbuf = writeCell s.vbuf off b := rfl
@[simp] theorem writeVbuf_txbuf (off : Nat) (b : Byte) (s : State) : (writeVbuf off b s).txbuf = s.txbuf := rfl
@[simp] theorem writeVbuf_rxbuf (off : Nat) (b : Byte) (s : State) : (writeVbuf off b s).rxbuf = s.rxbuf := rfl
@[simp] theorem writeVbuf_res (off : Nat) (b : Byte) (s : State) : (writeVbuf off b s).res = s.res := rfl
@[simp] theorem writeVbuf_major (off : Nat) (b : Byte) (s : State) : (writeVbuf off b s).major = s.major := rfl
@[simp] theorem writeVbuf_inputs (off : Nat) (b : Byte) (s : State) : (writeVbuf off b s).inputs = s.inputs := rfl
@[simp] theorem writeVbuf_calls (off : Nat) (b : Byte) (s : State) : (writeVbuf off b s).calls = s.calls := rfl
@[simp] theorem writeVbuf_readData (off : Nat) (b : Byte) (s : State) : (writeVbuf off b s).readData = s.readData := rfl
@[simp] theorem writeVbuf_draws (off : Nat) (b : Byte) (s : State) : (writeVbuf off b s).draws = s.draws := rfl
@[simp] theorem writeVbuf_epoch (off : Nat) (b : Byte) (s : State) : (writeVbuf off b s).epoch = s.epoch := rfl

@[simp] theorem readTxbuf_writeVbuf (off : Nat) (b : Byte) (s : State) (p : Nat) : readTxbuf (writeVbuf off b s) p = readTxbuf s p := rfl
@[simp] theorem readRxbuf_writeVbuf (off : Nat) (b : Byte) (s : State) (p : Nat) : readRxbuf (writeVbuf off b s) p = readRxbuf s p := rfl
@[simp] theorem readRes_writeVbuf (off : Nat) (b : Byte) (s : State) (k : Nat) : readRes (writeVbuf off b s) k = readRes s k := rfl

@[simp] theorem writeTxbuf_opCode (off : Nat) (bs : List Byte) (s : State) : (writeTxbuf off bs s).opCode = s.opCode := rfl
@[simp] theorem writeTxbuf_stState (off : Nat) (bs : List Byte) (s : State) : (writeTxbuf off bs s).stState = s.stState := rfl
@[simp] theorem writeTxbuf_stErr (off : Nat) (bs : List Byte) (s : State) : (writeTxbuf off bs s).stErr = s.stErr := rfl
@[simp] theorem writeTxbuf_ovr (off : Nat) (bs : List Byte) (s : State) : (writeTxbuf off bs s).ovr = s.ovr := rfl
@[simp] theorem writeTxbuf_n (off : Nat) (bs : List Byte) (s : State) : (writeTxbuf off bs s).n = s.n := rfl
@[simp] theorem writeTxbuf_m (off : Nat) (bs : List Byte) (s : State) : (writeTxbuf off bs s).m = s.m := rfl
@[simp] theorem writeTxbuf_cat (off : Nat) (bs : List Byte) (s : State) : (writeTxbuf off bs s).cat = s.cat := rfl
@[simp] theorem writeTxbuf_len (off : Nat) (bs : List Byte) (s : State) : (writeTxbuf off bs s).len = s.len := rfl
@[simp] theorem writeTxbuf_mMax (off : Nat) (bs : List Byte) (s : State) : (writeTxbuf off bs s).mMax = s.mMax := rfl
@[simp] theorem writeTxbuf_vbuf (off : Nat) (bs : List Byte) (s : State) : (writeTxbuf off bs s).vbuf = s.vbuf := rfl
@[simp] theorem writeTxbuf_txbuf (off : Nat) (bs : List Byte) (s : State) : (writeTxbuf off bs s).txbuf = writeCells s.txbuf off bs := rfl
@[simp] theorem writeTxbuf_rxbuf (off : Nat) (bs : List Byte) (s : State) : (writeTxbuf off bs s).rxbuf = s.rxbuf := rfl
@[simp] theorem writeTxbuf_res (off : Nat) (bs : List Byte) (s : State) : (writeTxbuf off bs s).res = s.res := rfl
@[simp] theorem writeTxbuf_major (off : Nat) (bs : List Byte) (s : State) : (writeTxbuf off bs s).major = s.major := rfl
@[simp] theorem writeTxbuf_inputs (off : Nat) (bs : List Byte) (s : State) : (writeTxbuf off bs s).inputs = s.inputs := rfl
@[simp] theorem writeTxbuf_calls (off : Nat) (bs : List Byte) (s : State) : (writeTxbuf off bs s).calls = s.calls := rfl
@[simp] theorem writeTxbuf_readData (off : Nat) (bs : List Byte) (s : State) : (writeTxbuf off bs s).readData = s.readData := rfl
@[simp] theorem writeTxbuf_draws (off : Nat) (bs : List Byte) (s : State) : (writeTxbuf off bs s).draws = s.draws := rfl
@[simp] theorem writeTxbuf_epoch (off : Nat) (bs : List Byte) (s : State) : (writeTxbuf off bs s).epoch = s.epoch := rfl

@[simp] theorem readVbuf_writeTxbuf (off : Nat) (bs : List Byte) (s : State) (p : Nat) : readVbuf (writeTxbuf off bs s) p = readVbuf s p := rfl
@[simp] theorem readRxbuf_writeTxbuf (off : Nat) (bs : List Byte) (s : State) (p : Nat) : readRxbuf (writeTxbuf off bs s) p = readRxbuf s p := rfl
@[simp] theorem readRes_writeTxbuf (off : Nat) (bs : List Byte) (s : State) (k : Nat) : readRes (writeTxbuf off bs s) k = readRes s k := rfl

@[simp] theorem writeRxbuf_opCode (off : Nat) (bs : List Byte) (s : State) : (writeRxbuf off bs s).opCode = s.opCode := rfl
@[simp] theorem writeRxbuf_stState (off : Nat) (bs : List Byte) (s : State) : (writeRxbuf off bs s).stState = s.stState := rfl
@[simp] theorem writeRxbuf_stErr (off : Nat) (bs : List Byte) (s : State) : (writeRxbuf off bs s).stErr = s.stErr := rfl
@[simp] theorem writeRxbuf_ovr (off : Nat) (bs : List Byte) (s : State) : (writeRxbuf off bs s).ovr = s.ovr := rfl
@[simp] theorem writeRxbuf_n (off : Nat) (bs : List Byte) (s : State) : (writeRxbuf off bs s).n = s.n := rfl
@[simp] theorem writeRxbuf_m (off : Nat) (bs : List Byte) (s : State) : (writeRxbuf off bs s).m = s.m := rfl
@[simp] theorem writeRxbuf_cat (off : Nat) (bs : List Byte) (s : State) : (writeRxbuf off bs s).cat = s.cat := rfl
@[simp] theorem writeRxbuf_len (off : Nat) (bs : List Byte) (s : State) : (writeRxbuf off bs s).len = s.len := rfl
@[simp] theorem writeRxbuf_mMax (off : Nat) (bs : List Byte) (s : State) : (writeRxbuf off bs s).mMax = s.mMax := rfl
@[simp] theorem writeRxbuf_vbuf (off : Nat) (bs : List Byte) (s : State) : (writeRxbuf off bs s).vbuf = s.vbuf := rfl
@[simp] theorem writeRxbuf_txbuf (off : Nat) (bs : List Byte) (s : State) : (writeRxbuf off bs s).txbuf = s.txbuf := rfl
@[simp] theorem writeRxbuf_rxbuf (off : Nat) (bs : List Byte) (s : State) : (writeRxbuf off bs s).rxbuf = writeCells s.rxbuf off bs := rfl
@[simp] theorem writeRxbuf_res (off : Nat) (bs : List Byte) (s : State) : (writeRxbuf off bs s).res = s.res := rfl
@[simp] theorem writeRxbuf_major (off : Nat) (bs : List Byte) (s : State) : (writeRxbuf off bs s).major = s.major := rfl
@[simp] theorem writeRxbuf_inputs (off : Nat) (bs : List Byte) (s : State) : (writeRxbuf off bs s).inputs = s.inputs := rfl
@[simp] theorem writeRxbuf_calls (off : Nat) (bs : List Byte) (s : State) : (writeRxbuf off bs s).calls = s.calls := rfl
@[simp] theorem writeRxbuf_readData (off : Nat) (bs : List Byte) (s : State) : (writeRxbuf off bs s).readData = s.readData := rfl
@[simp] theorem writeRxbuf_draws (off : Nat) (bs : List Byte) (s : State) : (writeRxbuf off bs s).draws = s.draws := rfl
@[simp] theorem writeRxbuf_epoch (off : Nat) (bs : List Byte) (s : State) : (writeRxbuf off bs s).epoch = s.epoch := rfl

@[simp] theorem readVbuf_writeRxbuf (off : Nat) (bs : List Byte) (s : State) (p : Nat) : readVbuf (writeRxbuf off bs s) p = readVbuf s p := rfl
@[simp] theorem readTxbuf_writeRxbuf (off : Nat) (bs : List Byte) (s : State) (p : Nat) : readTxbuf (writeRxbuf off bs s) p = readTxbuf s p := rfl
@[simp] theorem readRes_writeRxbuf (off : Nat) (bs : List Byte) (s : State) (k : Nat) : readRes (writeRxbuf off bs s) k = readRes s k := rfl

@[simp] theorem writeRes_opCode (i : Nat) (es : List Result) (s : State) : (writeRes i es s).opCode = s.opCode := rfl
@[simp] theorem writeRes_stState (i : Nat) (es : List Result) (s : State) : (writeRes i es s).stState = s.stState := rfl
@[simp] theorem writeRes_stErr (i : Nat) (es : List Result) (s : State) : (writeRes i es s).stErr = s.stErr := rfl
@[simp] theorem writeRes_ovr (i : Nat) (es : List Result) (s : State) : (writeRes i es s).ovr = s.ovr := rfl
@[simp] theorem writeRes_n (i : Nat) (es : List Result) (s : State) : (writeRes i es s).n = s.n := rfl
@[simp] theorem writeRes_m (i : Nat) (es : List Result) (s : State) : (writeRes i es s).m = s.m := rfl
@[simp] theorem writeRes_cat (i : Nat) (es : List Result) (s : State) : (writeRes i es s).cat = s.cat := rfl
@[simp] theorem writeRes_len (i : Nat) (es : List Result) (s : State) : (writeRes i es s).len = s.len := rfl
@[simp] theorem writeRes_mMax (i : Nat) (es : List Result) (s : State) : (writeRes i es s).mMax = s.mMax := rfl
@[simp] theorem writeRes_vbuf (i : Nat) (es : List Result) (s : State) : (writeRes i es s).vbuf = s.vbuf := rfl
@[simp] theorem writeRes_txbuf (i : Nat) (es : List Result) (s : State) : (writeRes i es s).txbuf = s.txbuf := rfl
@[simp] theorem writeRes_rxbuf (i : Nat) (es : List Result) (s : State) : (writeRes i es s).rxbuf = s.rxbuf := rfl
@[simp] theorem writeRes_res (i : Nat) (es : List Result) (s : State) : (writeRes i es s).res = writeCells s.res i es := rfl
@[simp] theorem writeRes_major (i : Nat) (es : List Result) (s : State) : (writeRes i es s).major = s.major := rfl
@[simp] theorem writeRes_inputs (i : Nat) (es : List Result) (s : State) : (writeRes i es s).inputs = s.inputs := rfl
@[simp] theorem writeRes_calls (i : Nat) (es : List Result) (s : State) : (writeRes i es s).calls = s.calls := rfl
@[simp] theorem writeRes_readData (i : Nat) (es : List Result) (s : State) : (writeRes i es s).readData = s.readData := rfl
@[simp] theorem writeRes_draws (i : Nat) (es : List Result) (s : State) : (writeRes i es s).draws = s.draws := rfl
@[simp] theorem writeRes_epoch (i : Nat) (es : List Result) (s : State) : (writeRes i es s).epoch = s.epoch := rfl

@[simp] theorem readVbuf_writeRes (i : Nat) (es : List Result) (s : State) (off : Nat) : readVbuf (writeRes i es s) off = readVbuf s off := rfl
@[simp] theorem readTxbuf_writeRes (i : Nat) (es : List Result) (s : State) (off : Nat) : readTxbuf (writeRes i es s) off = readTxbuf s off := rfl
@[simp] theorem readRxbuf_writeRes (i : Nat) (es : List Result) (s : State) (off : Nat) : readRxbuf (writeRes i es s) off = readRxbuf s off := rfl

@[simp] theorem resetMachine_opCode (s : State) : (resetMachine s).opCode = 0 := rfl
@[simp] theorem resetMachine_stState (s : State) : (resetMachine s).stState = .idle := rfl
@[simp] theorem resetMachine_stErr (s : State) : (resetMachine s).stErr = .none := rfl
@[simp] theorem resetMachine_ovr (s : State) : (resetMachine s).ovr = false := rfl
@[simp] theorem resetMachine_n (s : State) : (resetMachine s).n = 0 := rfl
@[simp] theorem resetMachine_m (s : State) : (resetMachine s).m = 0 := rfl
@[simp] theorem resetMachine_cat (s : State) : (resetMachine s).cat = 0 := rfl
@[simp] theorem resetMachine_len (s : State) : (resetMachine s).len = 0 := rfl
@[simp] theorem resetMachine_mMax (s : State) : (resetMachine s).mMax = s.mMax := rfl
@[simp] theorem resetMachine_vbuf (s : State) : (resetMachine s).vbuf = [] := rfl
@[simp] theorem resetMachine_txbuf (s : State) : (resetMachine s).txbuf = [] := rfl
@[simp] theorem resetMachine_rxbuf (s : State) : (resetMachine s).rxbuf = [] := rfl
@[simp] theorem resetMachine_res (s : State) : (resetMachine s).res = [] := rfl
@[simp] theorem resetMachine_major (s : State) : (resetMachine s).major = .notBusy := rfl
@[simp] theorem resetMachine_inputs (s : State) : (resetMachine s).inputs = s.inputs := rfl
@[simp] theorem resetMachine_calls (s : State) : (resetMachine s).calls = s.calls := rfl
@[simp] theorem resetMachine_readData (s : State) : (resetMachine s).readData = s.readData := rfl
@[simp] theorem resetMachine_draws (s : State) : (resetMachine s).draws = s.draws := rfl
@[simp] theorem resetMachine_epoch (s : State) : (resetMachine s).epoch = s.epoch + 1 := rfl

/-- What the sequencer reads of VBUF, N and CAT is what it read before issue. -/
@[simp] theorem slotByte_issued (kind : FrameKind) (code : Byte) (s : State) (i k : Nat) :
    slotByte kind (issued code s) i k = slotByte kind s i k := rfl

@[simp] theorem slotByte_writeTxbuf (kind : FrameKind) (off : Nat) (bs : List Byte) (s : State) (i k : Nat) :
    slotByte kind (writeTxbuf off bs s) i k = slotByte kind s i k := rfl

@[simp] theorem sampleVector_issued (code : Byte) (s : State) (i : Nat) :
    sampleVector (issued code s) i = sampleVector s i := rfl

@[simp] theorem sampleVectors_issued (code : Byte) (s : State) (count : Nat) :
    sampleVectors (issued code s) count = sampleVectors s count := rfl

@[simp] theorem sampleResult_issued (job : Job) (code : Byte) (s : State) (i : Nat) :
    sampleResult job (issued code s) i = sampleResult job s i := rfl

@[simp] theorem sampleResult_writeRes (job : Job) (k : Nat) (es : List Result) (s : State) (i : Nat) :
    sampleResult job (writeRes k es s) i = sampleResult job s i := rfl

/-- The buffers and the result file are canonical at reset. -/
theorem reset_buffers_wf :
    Memory.wf State.reset.vbuf ∧ Memory.wf State.reset.txbuf ∧ Memory.wf State.reset.rxbuf ∧ ResultFile.wf State.reset.res := by
  decide

end Sys2Proof.Machine
end

