-- ==== Sys2Proof/Tests/Slice0.lean ====
section
/-! SUPPORT. The model's own tests. Expected values come from spec/95_test_vectors.md (its vector ids stand in the comments) or are
worked out from the encodings of spec/30_encoding.md. Then, for each obligation with hypotheses, a witness that meets them. -/

namespace Sys2Proof.Tests

open Sys2Proof.Machine

/-! ### Helpers -/

/-- A machine with M_MAX = 4 and these operands, right after reset otherwise. -/
def idle (n : Byte) (m cat : Half) (vector : List Byte) (inputs : List Input := []) : State :=
  { State.reset with mMax := 4, n := n, m := m, cat := cat, vbuf := writeCells [] 0 vector, inputs := inputs }

/-- The same, with RXBUF bytes at the given offsets. -/
def withRx (rx : Memory) (s : State) : State := { s with rxbuf := rx }

/-- The same, with the sequencer at work. -/
def running (code : Byte) (major : Major) (s : State) : State :=
  { s with opCode := code, stState := .busy, major := major }

/-- A job, written out. -/
def job (code : Byte) (kind : FrameKind) (samples stride : Nat) : Job :=
  { code := code, kind := kind, samples := samples, stride := stride, length := samples * stride }

/-- What a test reads of the next state, none where there is none. -/
def after {α : Type} (o : Host.Outcome State Fault Refusal) (f : State → α) : Option α :=
  match o with
  | .next t => some (f t)
  | .fault _ => none
  | .refused _ => none

/-- Whether an instruction is refused at a state. -/
def isRefused (o : Host.Outcome State Fault Refusal) : Bool :=
  match o with
  | .next _ => false
  | .fault _ => false
  | .refused _ => true

/-- A write to OP by the host. -/
def op (code : Word) : Input := .host (.write .reg 0x00 32 code)

/-! ### Decoding: words written out from the op-code map (R110) and the wire constants (R91) -/

theorem test_decode_op_codes :
    decodeOpWord 0b00000000000000000000000000000001 = .ok .encLearn ∧
    decodeOpWord 0b00000000000000000000000000000010 = .ok .encClassify ∧
    decodeOpWord 0b00000000000000000000000000000011 = .ok .encClassifyMulti ∧
    decodeOpWord 0b00000000000000000000000000000100 = .ok .decClassify ∧
    decodeOpWord 0b00000000000000000000000000000101 = .ok .decClassifyMulti ∧
    decodeOpWord 0b00000000000000000000000000001001 = .ok .txnLearn ∧
    decodeOpWord 0b00000000000000000000000000001010 = .ok .txnClassify ∧
    decodeOpWord 0b00000000000000000000000000001011 = .ok .txnClassifyMulti := by
  refine ⟨?_, ?_, ?_, ?_, ?_, ?_, ?_, ?_⟩ <;> rfl

/-- ER6: bits [31:8] of a write to OP are ignored. -/
theorem test_decode_op_ignores_high_bits : decodeOpWord 0x00000102 = .ok .encClassify := by rfl

theorem test_decode_wire_bytes :
    decode .wireByte [0b01100000, 0xAA] = .ok (.learnCommand, [0xAA]) ∧
    decode .wireByte [0b01000000] = .ok (.classifyCommand, []) ∧
    decode .wireByte [0b10000011] = .ok (.readDistance, []) ∧
    decode .wireByte [0b10000100] = .ok (.readCategory, []) ∧
    decode .wireByte [0b00000000] = .ok (.dummy, []) := by
  refine ⟨?_, ?_, ?_, ?_, ?_⟩ <;> rfl

/-- R112: the reserved op codes next to the assigned ones; R90: a wire constant is no op code. -/
theorem test_decode_rejects_by_name :
    decodeByte .hostOp 0x00 = .error (.reservedOpCode 0x00) ∧ decodeByte .hostOp 0x06 = .error (.reservedOpCode 0x06) ∧
    decodeByte .hostOp 0x08 = .error (.reservedOpCode 0x08) ∧ decodeByte .hostOp 0x0C = .error (.reservedOpCode 0x0C) ∧
    decodeByte .hostOp 0x60 = .error (.reservedOpCode 0x60) ∧ decodeByte .wireByte 0x01 = .error (.notAWireConstant 0x01) ∧
    decode .hostOp [] = .error .truncated := by
  refine ⟨?_, ?_, ?_, ?_, ?_, ?_, ?_⟩ <;> rfl

/-- No two rows of the opcode table share a byte of one format. -/
theorem test_table_rows_do_not_overlap :
    opcodeTable.Pairwise fun x y => x.format = y.format → x.pattern ≠ y.pattern := by decide

theorem test_table_words :
    decodeTableWord 8 0x60 = some .learnCommand ∧ decodeTableWord 8 0x00 = some .dummy ∧
    decodeTableWord 8 0x0B = some .txnClassifyMulti ∧ decodeTableWord 8 0x06 = none ∧ decodeTableWord 16 0x60 = none := by
  decide

/-! ### WellFormed: each check refuses an ill-formed term -/

theorem test_wire_byte_is_no_op_code : ¬ Instr.learnCommand.WellFormedIn .hostOp := by decide
theorem test_operation_is_no_wire_byte : ¬ Instr.encLearn.WellFormedIn .wireByte := by decide
theorem test_wrb_of_txbuf_is_ill_formed : ¬ (Stmt.wrb .txbuf 0 0).WellFormed := by decide
theorem test_rdb_of_res_is_ill_formed : ¬ (Stmt.rdb .res 0).WellFormed := by decide
theorem test_issue_of_a_wire_byte_is_ill_formed : ¬ (Pseudo.issueOp .dummy).WellFormed := by decide
theorem test_run_of_a_wire_byte_is_ill_formed : ¬ (Pseudo.run .learnCommand "w").WellFormed := by decide
theorem test_empty_vector_is_ill_formed : ¬ (WireFrame.classify []).WellFormed := by decide

/-! ### Frames -/

/-- EN1: the CLASSIFY frame for N = 2, slot by slot. -/
theorem test_frame_byte_classify :
    (List.range 14).map (frameByte .classify 2 0 (fun j => [0x0A, 0x0B].getD j 0)) =
      [some 0x40, some 0x00, some 0x01, some 0x0A, some 0x0B, some 0x83, some 0x00, some 0x00, some 0x00, some 0x84, some 0x00,
        some 0x00, some 0x00, none] := by decide

/-- EN2: its phases. -/
theorem test_phases :
    (List.range 13).map (phaseOf .classify 2) =
      [some .cmd, some .lenHi, some .lenLo, some (.vec 0), some (.vec 1), some .selDist, some (.padDist 0), some (.padDist 1),
        some (.padDist 2), some .selCat, some (.padCat 0), some (.padCat 1), some (.padCat 2)] := by decide

/-- EN3: receive roles for N = 2. -/
theorem test_receive_roles :
    receiveRole .classify 2 7 = .distHi ∧ receiveRole .classify 2 8 = .distLo ∧ receiveRole .classify 2 11 = .catHi ∧
    receiveRole .classify 2 12 = .catLo ∧ receiveRole .classify 2 9 = .ignored ∧ receiveRole .learn 2 7 = .ignored := by decide

/-- EN4 to EN7: telling frames apart. -/
theorem test_frame_length :
    frameLength [0x60, 0x00, 0x3F] = some 68 ∧ frameLength [0x40, 0x00, 0x00] = some 12 ∧ frameLength [0x40, 0x01, 0x00] = none ∧
    batchSize ([0x40, 0x00, 0x01] ++ List.replicate 23 0x00) = some 2 := by decide

/-- EN10: the host writes −1 as FF, and −128 as 80 (FC-L6). -/
theorem test_signed_elements : elementByte (-1) = 0xFF ∧ elementByte (-128) = 0x80 ∧ elementByte 127 = 0x7F := by decide

/-- W8: 0x80 and 0x00 combine to 32768. -/
theorem test_unsigned_combination : (unbe16 0x80 0x00).toNat = 32768 := by decide

/-! ### Operations -/

/-- FC-L7: a LEARN frame, LEN = 7; CAT = 0x0105 is cut to 05 (FC-L5). -/
theorem test_encLearn :
    after (exec .encLearn (idle 3 0 0x0105 [0x01, 0xFF, 0x80])) (fun t => (txBytes t 7, t.len, statusWord t)) =
      some ([0x60, 0x00, 0x02, 0x01, 0xFF, 0x80, 0x05], 7, 0x002) := by decide

/-- FC-C4: selector values inside a vector are plain data. -/
theorem test_encClassify :
    after (exec .encClassify (idle 3 0 0x77 [0x83, 0x84, 0x00])) (fun t => (txBytes t 14, t.len)) =
      some ([0x40, 0x00, 0x02, 0x83, 0x84, 0x00, 0x83, 0x00, 0x00, 0x00, 0x84, 0x00, 0x00, 0x00], 14) := by decide

/-- BC-E6: two samples; VBUF beyond M·N is not read. -/
theorem test_encClassifyMulti :
    after (exec .encClassifyMulti (idle 2 2 0 [0x0A, 0x0B, 0x0C, 0x0D, 0xEE, 0xEE])) (fun t => (txBytes t 26, t.len)) =
      some ([0x40, 0x00, 0x01, 0x0A, 0x0B, 0x83, 0x00, 0x00, 0x00, 0x84, 0x00, 0x00, 0x00,
        0x40, 0x00, 0x01, 0x0C, 0x0D, 0x83, 0x00, 0x00, 0x00, 0x84, 0x00, 0x00, 0x00], 26) := by decide

/-- FC-D2: no sign extension. -/
theorem test_decClassify :
    after (exec .decClassify (withRx [(6, 0x80), (7, 0xFF), (10, 0x00), (11, 0x80)] (idle 1 0 0 [])))
        (fun t => (resultWord (readRes t 0), t.len)) = some (0x80FF0080, 12) := by decide

/-- BC-D1: two samples, in order. -/
theorem test_decClassifyMulti :
    after (exec .decClassifyMulti
        (withRx [(7, 0x01), (8, 0x2C), (11, 0x00), (12, 0x07), (20, 0xFF), (21, 0xFF), (24, 0x80), (25, 0x00)] (idle 2 2 0 [])))
        (fun t => (resultWord (readRes t 0), resultWord (readRes t 1))) = some (0x012C0007, 0xFFFF8000) := by decide

/-- TX1: the one exchange of TXN_LEARN, and its end after Ok. -/
theorem test_txnLearn :
    after (exec .txnLearn (idle 3 0 5 [0x01, 0xFF, 0x80])) (fun t => (t.calls, statusWord t)) =
      some ([⟨7, [0x60, 0x00, 0x02, 0x01, 0xFF, 0x80, 0x05]⟩], 0x001) := by decide

/-- TX4: the frame of TXN_CLASSIFY is in TXBUF before the exchange returns. -/
theorem test_txnClassify :
    after (exec .txnClassify (idle 1 0 0 [0x42])) (fun t => t.calls) =
      some [⟨12, [0x40, 0x00, 0x00, 0x42, 0x83, 0x00, 0x00, 0x00, 0x84, 0x00, 0x00, 0x00]⟩] := by decide

/-- TX3: one call of 26 bytes. -/
theorem test_txnClassifyMulti :
    after (exec .txnClassifyMulti (idle 2 2 0 [0x0A, 0x0B, 0x0C, 0x0D])) (fun t => t.calls.map fun c => (c.length, c.tx.length)) =
      some [(26, 26)] := by decide

/-! ### Wire bytes: the slots of the CLASSIFY frame for N = 2 (EN1) and of a LEARN frame -/

theorem test_learnCommand :
    after (exec .learnCommand (running 0x01 (.encode (job 0x01 .learn 1 6) 0 0) (idle 2 0 0 [])))
        (fun t => (readTxbuf t 0, t.major)) = some (0x60, .encode (job 0x01 .learn 1 6) 0 1) := by decide

/-- The second sample of a batch opens with 0x40 at offset S (R97). -/
theorem test_classifyCommand :
    after (exec .classifyCommand (running 0x03 (.encode (job 0x03 .classify 2 13) 1 0) (idle 2 2 0 [])))
        (fun t => readTxbuf t 13) = some 0x40 := by decide

theorem test_readDistance :
    after (exec .readDistance (running 0x02 (.encode (job 0x02 .classify 1 13) 0 5) (idle 2 0 0 [])))
        (fun t => readTxbuf t 5) = some 0x83 := by decide

theorem test_readCategory :
    after (exec .readCategory (running 0x02 (.encode (job 0x02 .classify 1 13) 0 9) (idle 2 0 0 [])))
        (fun t => readTxbuf t 9) = some 0x84 := by decide

/-- The last padding slot of ENC_CLASSIFY ends the operation. -/
theorem test_dummy :
    after (exec .dummy (running 0x02 (.encode (job 0x02 .classify 1 13) 0 12) (idle 2 0 0 [])))
        (fun t => (readTxbuf t 12, t.len, statusWord t)) = some (0x00, 13, 0x002) := by decide

/-- A wire byte asked for in a vector slot, or outside ENCODE, is refused (log 11). -/
theorem test_wire_byte_elsewhere :
    isRefused (exec .dummy (running 0x02 (.encode (job 0x02 .classify 1 13) 0 3) (idle 2 0 0 []))) = true ∧
    isRefused (exec .learnCommand (idle 2 0 0 [])) = true := by decide

/-! ### Errors, the host interface, the transport and reset -/

/-- ER14, ER15, ER12 and ER16: the order of the checks. -/
theorem test_check_order :
    after (step (idle 0 0 0 [] [op 0x07])) statusWord = some 0x013 ∧
    after (step (idle 0 0 0 [] [op 0x0B])) statusWord = some 0x023 ∧
    after (step (idle 2 0 0 [] [op 0x03])) statusWord = some 0x033 ∧
    after (step (idle 2 0 0 [0x00, 0x00] [op 0x02])) statusWord = some 0x002 := by decide

/-- HI3: a write while BUSY leaves N alone and sets OVR. -/
theorem test_busy_write :
    after (step (running 0x0A (.exchange (job 0x0A .classify 1 12)) (idle 1 0 0 [] [.host (.write .reg 0x08 32 5)])))
        (fun t => (t.n, statusWord t)) = some (1, 0x101) := by decide

/-- HI16, HI7 and HI9: CAT keeps 16 bits, a byte write to N and a write to TXBUF are ignored. -/
theorem test_writes :
    after (step (idle 1 0 0 [] [.host (.write .reg 0x10 32 0x00010203)])) (fun t => t.cat) = some 0x0203 ∧
    after (step (idle 1 0 0 [] [.host (.write .reg 0x08 8 5)])) (fun t => t.n) = some 1 ∧
    after (step (idle 1 0 0 [] [.host (.write .txbuf 0 8 0x55)])) (fun t => t.txbuf) = some [] := by decide

/-- HI1 with M_MAX = 4, HI8, HI11 and HI12. -/
theorem test_reads :
    after (step (idle 1 0 0 [] [.host (.read .reg 0x18 32)])) (fun t => t.readData) = some 0x00400004 ∧
    after (step (idle 1 0 0 [] [.host (.read .reg 0x1C 32)])) (fun t => t.readData) = some 0 ∧
    after (step (idle 1 0 0 [] [.host (.read .vbuf 256 8)])) (fun t => t.readData) = some 0 ∧
    after (step (idle 1 0 0 [] [.host (.read .res 0 16)])) (fun t => t.readData) = some 0 := by decide

/-- HI4 and HI5: OVR falls on a 1 in bit 8 only. -/
theorem test_clear_overrun :
    after (step { idle 1 0 0 [] [.host (.write .reg 0x04 32 0x100)] with ovr := true, stState := .done }) statusWord = some 0x002 ∧
    after (step { idle 1 0 0 [] [.host (.write .reg 0x04 32 0xFF)] with ovr := true, stState := .done }) statusWord = some 0x102 := by
  decide

/-- The outstanding exchange of TXN_CLASSIFY with N = 1. -/
def exchanging (inputs : List Input) : State :=
  { running 0x0A (.exchange (job 0x0A .classify 1 12)) (idle 1 0 0 [0x42] inputs) with
    txbuf := writeCells [] 0 (classifyFrame [0x42]), calls := [⟨12, classifyFrame [0x42]⟩] }

/-- P5: the answer to the exchange fills RXBUF; TX4: a failure ends in TRANSPORT with LEN = 12. -/
theorem test_answers :
    after (step (exchanging [.answer 1 (.ok [0, 0, 0, 0, 0, 0, 0, 0x64, 0, 0, 0, 3])])) (fun t => (readRxbuf t 7, t.major)) =
      some (0x64, .decode (job 0x0A .classify 1 12) 0) ∧
    after (step (exchanging [.answer 1 .fail])) (fun t => (t.len, statusWord t)) = some (12, 0x043) := by decide

/-- TX7: reset while an exchange is outstanding; the late answer is dropped. -/
theorem test_reset :
    after (step (exchanging [.reset])) (fun t => (statusWord t, t.n, t.major)) = some (0x000, 0, .notBusy) := by decide

/-! ### The host's two questions: every row's word runs as the first instruction after reset -/

/-- RS2: an operation right after reset ends in BAD_N, since N = 0. -/
theorem test_fetch_operation : after (step (State.reset.withFetchWord 8 0x02)) (fun t => (t.opCode, statusWord t)) = some (0x02, 0x023) := by
  decide

theorem test_fetch_learnCommand : after (step (State.reset.withFetchWord 8 0x60)) (fun t => readTxbuf t 0) = some 0x60 := by decide
theorem test_fetch_classifyCommand : after (step (State.reset.withFetchWord 8 0x40)) (fun t => readTxbuf t 0) = some 0x40 := by decide
theorem test_fetch_readDistance : after (step (State.reset.withFetchWord 8 0x83)) (fun t => readTxbuf t 4) = some 0x83 := by decide
theorem test_fetch_readCategory : after (step (State.reset.withFetchWord 8 0x84)) (fun t => readTxbuf t 8) = some 0x84 := by decide
theorem test_fetch_dummy : after (step (State.reset.withFetchWord 8 0x00)) (fun t => readTxbuf t 5) = some 0x00 := by decide

/-! ### Witnesses: states and operands that meet the hypotheses of each obligation, each clause at a boundary -/

/-- 64 bytes, the longest vector. -/
def longVector : List Byte := List.replicate 64 0x80

/-- The invariant of a state that is not BUSY, from its decidable parts. -/
theorem inv_of_idle {s : State} (h₁ : s.mMax ≠ 0) (h₂ : s.stState = .idle) (h₃ : s.stErr = .none) (h₄ : s.major = .notBusy)
    (h₅ : Memory.wf s.vbuf ∧ CellsBelow (vbufSize s) s.vbuf) (h₆ : Memory.wf s.txbuf ∧ CellsBelow (frameMax s) s.txbuf)
    (h₇ : Memory.wf s.rxbuf ∧ CellsBelow (frameMax s) s.rxbuf) (h₈ : ResultFile.wf s.res ∧ CellsBelow (resSize s) s.res)
    (h₉ : s.len.toNat ≤ frameMax s) : s.Inv :=
  ⟨h₁, by simp [h₂, h₄], by simp [h₂, h₃], h₅, h₆, h₇, h₈, h₉, by unfold State.MajorOk; rw [h₄]; trivial⟩

/-- The invariant of a BUSY state, from its decidable parts. -/
theorem inv_of_busy {s : State} (h₁ : s.mMax ≠ 0) (h₂ : s.stState = .busy) (h₃ : s.stErr = .none) (h₄ : s.major ≠ .notBusy)
    (h₅ : Memory.wf s.vbuf ∧ CellsBelow (vbufSize s) s.vbuf) (h₆ : Memory.wf s.txbuf ∧ CellsBelow (frameMax s) s.txbuf)
    (h₇ : Memory.wf s.rxbuf ∧ CellsBelow (frameMax s) s.rxbuf) (h₈ : ResultFile.wf s.res ∧ CellsBelow (resSize s) s.res)
    (h₉ : s.len.toNat ≤ frameMax s) (h : s.MajorOk) : s.Inv :=
  ⟨h₁, by simp [h₂, h₄], by simp [h₂, h₃], h₅, h₆, h₇, h₈, h₉, h⟩

/-- ENC_CLASSIFY_MULTI at work, N = 1, M = 2. -/
def encoding (i k : Nat) (inputs : List Input := []) : State :=
  running 0x03 (.encode (job 0x03 .classify 2 12) i k) (idle 1 2 0 [0x11, 0x22] inputs)

/-- TXN_LEARN at its last slot, N = 1. -/
def lastLearnSlot : State := running 0x09 (.encode (job 0x09 .learn 1 5) 0 4) (idle 1 0 7 [0x11])

/-- DEC_CLASSIFY_MULTI at work, N = 1, M = 2. -/
def decoding (i : Nat) (inputs : List Input := []) : State :=
  running 0x05 (.decode (job 0x05 .classify 2 12) i) (idle 1 2 0 [] inputs)

/-- The invariant does not look at what stands in the inputs. -/
theorem inv_inputs {s : State} (h : s.Inv) (inputs : List Input) : State.Inv { s with inputs := inputs } :=
  ⟨h.1, h.2, h.3, h.4, h.5, h.6, h.7, h.8, h.9⟩

theorem encoding_inv : (encoding 0 0).Inv ∧ (encoding 0 11).Inv ∧ (encoding 1 11).Inv ∧ (encoding 0 3).Inv := by
  refine ⟨?_, ?_, ?_, ?_⟩ <;>
    exact inv_of_busy (by decide) rfl rfl (by decide) (by decide) (by decide) (by decide) (by decide) (by decide)
      ⟨rfl, by decide, by decide, by decide⟩

theorem lastLearnSlot_inv : lastLearnSlot.Inv :=
  inv_of_busy (by decide) rfl rfl (by decide) (by decide) (by decide) (by decide) (by decide) (by decide)
    ⟨rfl, by decide, by decide, by decide⟩

theorem decoding_inv : (decoding 0).Inv ∧ (decoding 1).Inv := by
  constructor <;>
    exact inv_of_busy (by decide) rfl rfl (by decide) (by decide) (by decide) (by decide) (by decide) (by decide)
      ⟨rfl, rfl, by decide, by decide⟩

theorem exchanging_inv (inputs : List Input) : (exchanging inputs).Inv :=
  inv_inputs (inv_of_busy (s := exchanging []) (by decide) rfl rfl (by decide) (by decide) (by decide) (by decide) (by decide)
    (by decide) ⟨rfl, by decide, by decide⟩) inputs

theorem idle_inv (inputs : List Input) : (idle 1 2 0 [0x11] inputs).Inv :=
  inv_inputs (inv_of_idle (s := idle 1 2 0 [0x11]) (by decide) rfl rfl rfl (by decide) (by decide) (by decide) (by decide)
    (by decide)) inputs

theorem witness_InstructionRoundTrip :
    Instr.encLearn.WellFormedIn .hostOp ∧ Instr.dummy.WellFormedIn .wireByte ∧ decodeByte .wireByte 0x00 = .ok .dummy := by
  refine ⟨?_, ?_, ?_⟩ <;> rfl

theorem witness_FrameRoundTrip :
    (WireFrame.learn [0xFF] 0xFF).WellFormed ∧ (WireFrame.learn longVector 0).WellFormed ∧
    (WireFrame.classify [0x00]).WellFormed ∧ (WireFrame.classify longVector).WellFormed := by decide

theorem witness_BatchRoundTrip :
    (1 ≤ 1 ∧ 1 ≤ 64 ∧ ∀ v ∈ ([[0x01], [0x02]] : List (List Byte)), v.length = 1) ∧
    (1 ≤ 64 ∧ 64 ≤ 64 ∧ (∀ v ∈ [longVector], v.length = 64) ∧ [longVector] ≠ []) := by decide

theorem witness_EncodedFrameProperties :
    (1 ≤ ([0x01] : List Byte).length ∧ ([0x01] : List Byte).length ≤ 64) ∧ (1 ≤ longVector.length ∧ longVector.length ≤ 64) := by
  decide

theorem witness_ClassifyFrameLayout :
    1 ≤ ([0x01] : List Byte).length ∧ longVector.length ≤ 64 ∧ 1 ≤ longVector.length ∧ (0 < longVector.length ∧ 63 < 64) ∧ 2 < 3 := by
  decide

theorem witness_FrameByteGivesTheFrames : 1 ≤ longVector.length ∧ longVector.length ≤ 64 := by decide

theorem witness_MultiFrameSlots :
    (∀ v ∈ [longVector, longVector], v.length = 64) ∧ [longVector, longVector][1]? = some longVector ∧ 74 < 64 + 11 ∧
    (∀ v ∈ ([[0x01]] : List (List Byte)), v.length = 1) ∧ 0 < 1 + 11 := by decide

/-- The response bytes of D = 0xFFFF and C = 0x0080 for N = 1. -/
def planted (k : Nat) : Byte := ([0, 0, 0, 0, 0, 0, 0xFF, 0xFF, 0, 0, 0x00, 0x80] : List Byte).getD k 0

theorem witness_PlantedResponseDecodes :
    planted (1 + 5) = (0xFFFF : Half).extractLsb' 8 8 ∧ planted (1 + 6) = (0xFFFF : Half).extractLsb' 0 8 ∧
    planted (1 + 9) = (0x0080 : Half).extractLsb' 8 8 ∧ planted (1 + 10) = (0x0080 : Half).extractLsb' 0 8 := by decide

theorem witness_BatchDecodesSliceBySlice :
    (∀ v ∈ ([[0x01], [0x02]] : List (List Byte)), v.length = 1) ∧
    (∀ x ∈ ([List.replicate 12 0x80, List.replicate 12 0x7F] : List (List Byte)), x.length = 1 + 11) ∧
    (∀ v ∈ [longVector], v.length = 64) ∧ (∀ x ∈ ([List.replicate 75 0xFF] : List (List Byte)), x.length = 64 + 11) := by decide

theorem witness_StepRunsTheIssuedOperation :
    (idle 1 0 0 [] [op 0xFFFFFF01]).inputs = .host (.write .reg 0x00 32 0xFFFFFF01) :: [] ∧
    decodeOpWord 0xFFFFFF01 = .ok .encLearn := ⟨rfl, rfl⟩

theorem witness_StepRunsTheWireByteOfTheSlot :
    ((encoding 1 11).major = .encode (job 0x03 .classify 2 12) 1 11 ∧
      slotConstant (job 0x03 .classify 2 12).kind (encoding 1 11).n.toNat 11 = some .dummy ∧ (encoding 1 11).inputs = []) ∧
    ((encoding 0 0 [.tick]).major = .encode (job 0x03 .classify 2 12) 0 0 ∧
      slotConstant (job 0x03 .classify 2 12).kind (encoding 0 0 [.tick]).n.toNat 0 = some .classifyCommand ∧
      (encoding 0 0 [.tick]).inputs = .tick :: []) := by decide

theorem witness_OverlappedIssueEntersFirstMajorState :
    ((idle 1 0 0 [] [.hostOverlapped (.write .reg 0x00 32 0x01)]).stState ≠ .busy ∧
      issueCheck (opCodeOf 0x01) (idle 1 0 0 [] [.hostOverlapped (.write .reg 0x00 32 0x01)]) = .ok (job 0x01 .learn 1 5)) ∧
    ((idle 64 4 0 [] [.hostOverlapped (.write .reg 0x00 32 0x05)]).stState ≠ .busy ∧
      issueCheck (opCodeOf 0x05) (idle 64 4 0 [] [.hostOverlapped (.write .reg 0x00 32 0x05)]) = .ok (job 0x05 .classify 4 75)) :=
  ⟨⟨by decide, rfl⟩, ⟨by decide, rfl⟩⟩

/-- The single-sample operations, at both ends of N. -/
theorem witness_single_operations :
    ((idle 1 0 0 []).stState ≠ .busy ∧ 1 ≤ (idle 1 0 0 []).n.toNat ∧ (idle 1 0 0 []).n.toNat ≤ 64) ∧
    ((idle 64 0 0 []).stState ≠ .busy ∧ 1 ≤ (idle 64 0 0 []).n.toNat ∧ (idle 64 0 0 []).n.toNat ≤ 64) := by decide

theorem witness_EncLearnBuildsItsFrame : (idle 64 0 0 []).stState ≠ .busy ∧ 1 ≤ (idle 64 0 0 []).n.toNat ∧
    (idle 64 0 0 []).n.toNat ≤ 64 := witness_single_operations.2

theorem witness_EncClassifyBuildsItsFrame : (idle 1 0 0 []).stState ≠ .busy ∧ 1 ≤ (idle 1 0 0 []).n.toNat ∧
    (idle 1 0 0 []).n.toNat ≤ 64 := witness_single_operations.1

theorem witness_DecClassifyWritesItsResult : (idle 64 0 0 []).stState ≠ .busy ∧ 1 ≤ (idle 64 0 0 []).n.toNat ∧
    (idle 64 0 0 []).n.toNat ≤ 64 := witness_single_operations.2

theorem witness_TxnLearnSendsItsFrame : (idle 1 0 0 []).stState ≠ .busy ∧ 1 ≤ (idle 1 0 0 []).n.toNat ∧
    (idle 1 0 0 []).n.toNat ≤ 64 := witness_single_operations.1

theorem witness_TxnClassifySendsItsFrame : (idle 64 0 0 []).stState ≠ .busy ∧ 1 ≤ (idle 64 0 0 []).n.toNat ∧
    (idle 64 0 0 []).n.toNat ≤ 64 := witness_single_operations.2

/-- The batch operations, at M = 1 and at M = M_MAX. -/
theorem witness_batch_operations :
    ((idle 1 1 0 []).stState ≠ .busy ∧ 1 ≤ (idle 1 1 0 []).n.toNat ∧ (idle 1 1 0 []).n.toNat ≤ 64 ∧
      1 ≤ (idle 1 1 0 []).m.toNat ∧ (idle 1 1 0 []).m.toNat ≤ (idle 1 1 0 []).mMax.toNat) ∧
    ((idle 64 4 0 []).stState ≠ .busy ∧ 1 ≤ (idle 64 4 0 []).n.toNat ∧ (idle 64 4 0 []).n.toNat ≤ 64 ∧
      1 ≤ (idle 64 4 0 []).m.toNat ∧ (idle 64 4 0 []).m.toNat ≤ (idle 64 4 0 []).mMax.toNat) := by decide

theorem witness_EncClassifyMultiBuildsItsFrame : (idle 64 4 0 []).stState ≠ .busy ∧ 1 ≤ (idle 64 4 0 []).n.toNat ∧
    (idle 64 4 0 []).n.toNat ≤ 64 ∧ 1 ≤ (idle 64 4 0 []).m.toNat ∧
    (idle 64 4 0 []).m.toNat ≤ (idle 64 4 0 []).mMax.toNat := witness_batch_operations.2

theorem witness_DecClassifyMultiWritesItsResults : (idle 1 1 0 []).stState ≠ .busy ∧ 1 ≤ (idle 1 1 0 []).n.toNat ∧
    (idle 1 1 0 []).n.toNat ≤ 64 ∧ 1 ≤ (idle 1 1 0 []).m.toNat ∧
    (idle 1 1 0 []).m.toNat ≤ (idle 1 1 0 []).mMax.toNat := witness_batch_operations.1

theorem witness_TxnClassifyMultiSendsItsFrame : (idle 64 4 0 []).stState ≠ .busy ∧ 1 ≤ (idle 64 4 0 []).n.toNat ∧
    (idle 64 4 0 []).n.toNat ≤ 64 ∧ 1 ≤ (idle 64 4 0 []).m.toNat ∧
    (idle 64 4 0 []).m.toNat ≤ (idle 64 4 0 []).mMax.toNat := witness_batch_operations.2

theorem witness_BatchOfOneIsTheSingleOperation :
    (idle 64 1 0 []).stState ≠ .busy ∧ 1 ≤ (idle 64 1 0 []).n.toNat ∧ (idle 64 1 0 []).n.toNat ≤ 64 ∧ (idle 64 1 0 []).m = 1 ∧
    (idle 64 1 0 []).mMax ≠ 0 := by decide

/-- Other bytes beyond M·N, and other bytes at every offset but the four of each sample. -/
theorem witness_OperationsReadOnlyTheirOperands :
    (∀ off, off < 2 * 1 →
      readVbuf { idle 1 2 0 [0x11, 0x22, 0x33] with vbuf := [(0, 0x11), (1, 0x22), (2, 0x44)] } off =
        readVbuf (idle 1 2 0 [0x11, 0x22, 0x33]) off) ∧
    (∀ i off, i < 1 → off = 1 + 5 ∨ off = 1 + 6 ∨ off = 1 + 9 ∨ off = 1 + 10 →
      readRxbuf { idle 1 1 0 [] with rxbuf := [(0, 0x55), (5, 0xAA), (8, 0x66), (12, 0x77)] } (i * (1 + 11) + off) =
        readRxbuf (idle 1 1 0 []) (i * (1 + 11) + off)) := by
  constructor
  · decide
  · rintro i off hi (rfl | rfl | rfl | rfl) <;> (obtain rfl : i = 0 := by omega) <;> rfl

theorem witness_CommandBytesOpenTheFrame :
    ((encoding 1 0).major = .encode (job 0x03 .classify 2 12) 1 0 ∧ (job 0x03 .classify 2 12).stride = strideOf .classify 1) ∧
    ((running 0x01 (.encode (job 0x01 .learn 1 68) 0 0) (idle 64 0 0 [])).major = .encode (job 0x01 .learn 1 68) 0 0 ∧
      (job 0x01 .learn 1 68).stride = strideOf .learn 64) := by decide

theorem witness_SelectorsFollowTheVector :
    (job 0x03 .classify 2 12).kind = .classify ∧ (job 0x03 .classify 2 12).stride = (encoding 0 4).n.toNat + 11 ∧
    (encoding 0 4).major = .encode (job 0x03 .classify 2 12) 0 ((encoding 0 4).n.toNat + 3) ∧
    (encoding 1 8).major = .encode (job 0x03 .classify 2 12) 1 ((encoding 1 8).n.toNat + 7) := by decide

/-- The first and the last slot of each padding run, with each of the four ways on from the last one. -/
theorem witness_DummyFillsThePadding :
    ((encoding 0 5).major = .encode (job 0x03 .classify 2 12) 0 5 ∧ 1 + 4 ≤ 5 ∧ 5 ≤ 1 + 6) ∧
    ((encoding 0 7).major = .encode (job 0x03 .classify 2 12) 0 7 ∧ 1 + 4 ≤ 7 ∧ 7 ≤ 1 + 6 ∧ 7 < 1 + 10) ∧
    ((encoding 0 9).major = .encode (job 0x03 .classify 2 12) 0 9 ∧ 1 + 8 ≤ 9 ∧ 9 ≤ 1 + 10) ∧
    ((encoding 0 11).major = .encode (job 0x03 .classify 2 12) 0 11 ∧ 11 = 1 + 10 ∧ 0 + 1 < 2) ∧
    ((encoding 1 11).major = .encode (job 0x03 .classify 2 12) 1 11 ∧ ¬ 1 + 1 < 2 ∧ (0x03 : Byte).getLsbD 3 = false) ∧
    ((running 0x0A (.encode (job 0x0A .classify 1 12) 0 11) (idle 1 0 0 [])).major = .encode (job 0x0A .classify 1 12) 0 11 ∧
      ¬ 0 + 1 < 1 ∧ (0x0A : Byte).getLsbD 3 = true) := by decide

theorem witness_WireByteElsewhereIsRefused :
    Instr.dummy.format = .wireByte ∧
    (∀ job i k, (idle 1 0 0 []).major = .encode job i k → slotConstant job.kind (idle 1 0 0 []).n.toNat k ≠ some .dummy) ∧
    (∀ j i k, (encoding 0 3).major = .encode j i k → slotConstant j.kind (encoding 0 3).n.toNat k ≠ some .dummy) := by
  refine ⟨rfl, ?_, ?_⟩
  · intro j i k h; cases h
  · intro j i k h; cases h; decide

theorem witness_FailedCheckWritesOnlyStatus :
    issueCheck (opCodeOf 0x06) (idle 0 0 0 [] [op 0x06]) = .error .badOp ∧
    issueCheck (opCodeOf 0x01) (idle 65 0 0 [] [op 0x01]) = .error .badN ∧
    issueCheck (opCodeOf 0x03) (idle 64 5 0 [] [op 0x03]) = .error .badM ∧ (idle 64 5 0 [] [op 0x03]).stState ≠ .busy :=
  ⟨rfl, rfl, rfl, by decide⟩

theorem witness_ReservedOpCodeEndsInBadOp :
    (idle 0 0 0 [] [op 0x0C]).inputs = .host (.write .reg 0x00 32 0x0C) :: [] ∧ (idle 0 0 0 [] [op 0x0C]).stState ≠ .busy ∧
    0x0C ≤ (opCodeOf 0x0C).toNat ∧ 0x0C ≤ (opCodeOf 0xFF).toNat ∧ opCodeOf 0xABCDEF00 = 0x00 ∧ opCodeOf 0x106 = 0x06 ∧
    opCodeOf 0x07 = 0x07 ∧ opCodeOf 0x08 = 0x08 := by decide

theorem witness_BadVectorLengthIsRefusedByAll :
    Instr.txnClassify.format = .hostOp ∧ (idle 0 0 0 []).stState ≠ .busy ∧ (idle 0 0 0 []).n.toNat < 1 ∧
    64 < (idle 65 0 0 []).n.toNat ∧ 64 < (idle 255 0 0 []).n.toNat := by decide

theorem witness_BadSampleCountIsRefusedByMulti :
    Instr.decClassifyMulti.format = .hostOp ∧ (idle 64 0 0 []).stState ≠ .busy ∧ (idle 64 0 0 []).m = 0 ∧
    (idle 1 5 0 []).mMax.toNat < (idle 1 5 0 []).m.toNat ∧ 1 ≤ (idle 1 5 0 []).n.toNat ∧
    ¬ (Instr.encLearn = .encClassifyMulti ∨ Instr.encLearn = .decClassifyMulti ∨ Instr.encLearn = .txnClassifyMulti) := by decide

/-- OVR set by a byte write to STATUS while BUSY, cleared by a STATUS write and by reset. -/
theorem witness_OverrunFlagFollowsItsRule :
    ((exchanging [.host (.write .reg 0x04 8 0)]).inputs = .host (.write .reg 0x04 8 0) :: [] ∧
      (exchanging [.host (.write .reg 0x04 8 0)]).stState = .busy ∧ ¬ (Space.reg = .reg ∧ 8 = 32 ∧ 0x04 = 0x04)) ∧
    (exchanging [.hostOverlapped (.write .reg 0x04 32 0x100)]).inputs = .hostOverlapped (.write .reg 0x04 32 0x100) :: [] ∧
    (∃ t, step (exchanging [op 0x01]) = .next t ∧ t.ovr ≠ (exchanging [op 0x01]).ovr) ∧
    (∃ t, step { exchanging [.host (.write .reg 0x04 32 0x100)] with ovr := true } = .next t ∧ t.ovr ≠ true) ∧
    (∃ t, step { exchanging [.reset] with ovr := true } = .next t ∧ t.ovr ≠ true) :=
  ⟨by decide, rfl, ⟨_, rfl, by decide⟩, ⟨_, rfl, by decide⟩, ⟨_, rfl, by decide⟩⟩

theorem witness_OperandRegisterWrites :
    (idle 0 0 0 [] [.host (.write .reg 0x08 32 0x141)]).inputs = .host (.write .reg 0x08 32 0x141) :: [] ∧
    (idle 0 0 0 [] [.host (.write .reg 0x0C 32 0xFFFFFFFF)]).inputs = .host (.write .reg 0x0C 32 0xFFFFFFFF) :: [] ∧
    (idle 0 0 0 [] [.hostOverlapped (.write .reg 0x10 32 0x10203)]).inputs = .hostOverlapped (.write .reg 0x10 32 0x10203) :: [] ∧
    (idle 0 0 0 []).stState ≠ .busy := by decide

/-- Each way a write is ignored, at the first offset or width that is. -/
theorem witness_IgnoredWriteChangesNothing :
    (idle 1 1 0 [] [.host (.write .reg 0x14 32 1)]).inputs = .host (.write .reg 0x14 32 1) :: [] ∧
    (idle 1 1 0 []).stState ≠ .busy ∧ 0x09 % 4 ≠ 0 ∧ 0x14 ≤ 0x14 ∧ 16 ≠ 32 ∧
    (idle 1 1 0 []).mMax.toNat * 64 ≤ 256 ∧ (idle 1 1 0 []).mMax.toNat * 75 ≤ 300 ∧ 32 ≠ 8 := by decide

/-- Each way a read is ignored, in a state that is BUSY and in one that is not. -/
theorem witness_IgnoredReadReturnsZero :
    (exchanging [.host (.read .txbuf 300 8)]).inputs = .host (.read .txbuf 300 8) :: [] ∧
    (exchanging []).mMax.toNat * 75 ≤ 300 ∧ (exchanging []).mMax.toNat * 64 ≤ 256 ∧ (exchanging []).mMax.toNat ≤ 16 / 4 ∧
    0x1C ≤ 0x1C ∧ 0x0A % 4 ≠ 0 ∧
    (idle 1 1 0 [] [.hostOverlapped (.read .res 0 16)]).inputs = .hostOverlapped (.read .res 0 16) :: [] ∧ 16 ≠ 32 := by decide

theorem witness_RegisterReads :
    (exchanging [.host (.read .reg 0x04 32)]).inputs = .host (.read .reg 0x04 32) :: [] ∧
    (idle 1 1 0 [] [.host (.read .reg 0x14 32)]).inputs = .host (.read .reg 0x14 32) :: [] ∧
    (idle 1 1 0 [] [.host (.read .reg 0x14 32)]).stState ≠ .busy := by decide

theorem witness_BufferAndResultReads :
    (idle 1 1 0 [] [.host (.read .vbuf 255 8)]).inputs = .host (.read .vbuf 255 8) :: [] ∧ (idle 1 1 0 []).stState ≠ .busy ∧
    255 < (idle 1 1 0 []).mMax.toNat * 64 ∧ 299 < (idle 1 1 0 []).mMax.toNat * 75 ∧ 12 = 4 * 3 ∧
    3 < (idle 1 1 0 []).mMax.toNat := by decide

theorem witness_ReadHasNoSideEffect :
    (exchanging [.host (.read .reg 0x14 32)]).inputs = .host (.read .reg 0x14 32) :: [] ∧ (idle 1 1 0 []).stState ≠ .busy := by
  decide

theorem witness_BusyReadsAreFreeValues :
    (exchanging [.host (.read .reg 0x14 32)]).inputs = .host (.read .reg 0x14 32) :: [] ∧ (exchanging []).stState = .busy ∧
    12 % 4 = 0 ∧ 12 / 4 < (exchanging []).mMax.toNat ∧ 255 < (exchanging []).mMax.toNat * 64 ∧
    299 < (exchanging []).mMax.toNat * 75 := by decide

theorem witness_BufferWriteStoresOneByte :
    (idle 1 1 0 [] [.host (.write .vbuf 255 8 0xABCD)]).inputs = .host (.write .vbuf 255 8 0xABCD) :: [] ∧
    (idle 1 1 0 []).stState ≠ .busy ∧ 255 < (idle 1 1 0 []).mMax.toNat * 64 ∧ 299 < (idle 1 1 0 []).mMax.toNat * 75 := by decide

/-- Two bytes at the end of VBUF. -/
theorem witness_SetupAndLoadvStoreTheirOperands :
    let prog := (Pseudo.setup 3 0 5).expand ++ (Pseudo.loadv 254 [0x01, 0xFF]).expand
    (idle 1 1 0 [] (programInputs prog)).stState ≠ .busy ∧ 254 + 2 ≤ (idle 1 1 0 [] (programInputs prog)).mMax.toNat * 64 ∧
    (idle 1 1 0 [] (programInputs prog)).inputs = programInputs prog := by decide

/-- The four ways on from a slot: the next slot, the next sample, completion, the exchange; and the same at a tick, at a slot of the
vector and at the last slot. -/
theorem witness_EncodeStepWritesItsSlot :
    ((encoding 0 0).Inv ∧ (encoding 0 0).inputs = [] ∧ 0 + 1 < 12) ∧ ((encoding 0 11).Inv ∧ ¬ 11 + 1 < 12 ∧ 0 + 1 < 2) ∧
    ((encoding 1 11).Inv ∧ ¬ 1 + 1 < 2 ∧ (encoding 1 11).opCode.getLsbD 3 = false) ∧
    (lastLearnSlot.Inv ∧ lastLearnSlot.inputs = [] ∧ lastLearnSlot.major = .encode (job 0x09 .learn 1 5) 0 4 ∧ ¬ 4 + 1 < 5 ∧
      ¬ 0 + 1 < 1 ∧ lastLearnSlot.opCode.getLsbD 3 = true) ∧
    ((encoding 0 3 [.tick]).Inv ∧ (encoding 0 3 [.tick]).inputs = .tick :: [] ∧
      (encoding 0 3 [.tick]).major = .encode (job 0x03 .classify 2 12) 0 3) ∧
    ((encoding 1 11 [.tick, .reset]).Inv ∧ (encoding 1 11 [.tick, .reset]).inputs = .tick :: [.reset]) :=
  ⟨⟨encoding_inv.1, rfl, by decide⟩, ⟨encoding_inv.2.1, by decide, by decide⟩,
    ⟨encoding_inv.2.2.1, by decide, by decide⟩, ⟨lastLearnSlot_inv, rfl, rfl, by decide, by decide, by decide⟩,
    ⟨inv_inputs encoding_inv.2.2.2 [.tick], rfl, rfl⟩, ⟨inv_inputs encoding_inv.2.2.1 [.tick, .reset], rfl⟩⟩

theorem witness_DecodeStepWritesItsEntry :
    ((decoding 0).Inv ∧ (decoding 0).inputs = [] ∧ (decoding 0).major = .decode (job 0x05 .classify 2 12) 0 ∧ 0 + 1 < 2) ∧
    ((decoding 1).Inv ∧ (decoding 1).major = .decode (job 0x05 .classify 2 12) 1 ∧ ¬ 1 + 1 < 2) ∧
    ((decoding 1 [.tick, .tick]).Inv ∧ (decoding 1 [.tick, .tick]).inputs = .tick :: [.tick]) :=
  ⟨⟨decoding_inv.1, rfl, rfl, by decide⟩, ⟨decoding_inv.2, rfl, by decide⟩, ⟨inv_inputs decoding_inv.2 [.tick, .tick], rfl⟩⟩

theorem witness_StepwiseRunIsTheAtomicOperation :
    Instr.txnClassifyMulti.format = .hostOp ∧ (idle 64 4 0 []).stState ≠ .busy ∧ (idle 64 4 0 []).inputs = [] := by decide

theorem witness_EncodeAndDecodeTerminate :
    ((encoding 0 0).Inv ∧ (encoding 0 0).inputs = []) ∧ ((decoding 1).Inv ∧ (decoding 1).inputs = []) :=
  ⟨⟨encoding_inv.1, rfl⟩, ⟨decoding_inv.2, rfl⟩⟩

theorem witness_UnansweredExchangeWaitsForEver :
    (exchanging [.tick, op 0x01, .answer 2 .fail]).major = .exchange (job 0x0A .classify 1 12) ∧
    (exchanging [.tick, op 0x01, .answer 2 .fail]).stState = .busy ∧
    ∀ x ∈ (exchanging [.tick, op 0x01, .answer 2 .fail]).inputs,
      x ≠ .reset ∧ ∀ a, x ≠ .answer (exchanging [.tick, op 0x01, .answer 2 .fail]).calls.length a := by
  refine ⟨rfl, rfl, ?_⟩
  simp [exchanging, running, idle, op]

theorem witness_ExchangeOkFillsReceiveBuffer :
    ((exchanging [.answer 1 (.ok (List.replicate 12 0x5A))]).major = .exchange (job 0x0A .classify 1 12) ∧
      (exchanging [.answer 1 (.ok (List.replicate 12 0x5A))]).inputs =
        .answer (exchanging []).calls.length (.ok (List.replicate 12 0x5A)) :: [] ∧
      (List.replicate 12 (0x5A : Byte)).length = (job 0x0A .classify 1 12).length) ∧
    ((running 0x09 (.exchange (job 0x09 .learn 1 5)) (idle 1 0 0 [] [.answer 0 (.ok [0, 0, 0, 0, 0])])).inputs =
        .answer (idle 1 0 0 []).calls.length (.ok [0, 0, 0, 0, 0]) :: [] ∧ (job 0x09 .learn 1 5).kind = .learn ∧
      ([0, 0, 0, 0, 0] : List Byte).length = (job 0x09 .learn 1 5).length) := by decide

theorem witness_ExchangeFailureRaisesTransport :
    (exchanging [.answer 1 .fail]).inputs = .answer (exchanging [.answer 1 .fail]).calls.length .fail :: [] ∧
    (exchanging [.answer 1 .fail]).major = .exchange (job 0x0A .classify 1 12) := by decide

theorem witness_LateAnswerIsDropped :
    2 ≠ (exchanging [.answer 2 .fail]).calls.length ∧ (exchanging [.answer 2 .fail]).inputs = .answer 2 .fail :: [] ∧
    ∀ job, (idle 1 0 0 [] [.answer 0 .fail]).major ≠ .exchange job := by
  refine ⟨by decide, rfl, ?_⟩
  intro j h; cases h

/-- TXN_CLASSIFY and TXN_CLASSIFY_MULTI, the second with a full buffer. -/
theorem witness_ClassificationPipeline :
    ((idle 1 0 0 []).stState ≠ .busy ∧ opCodeOf 0x0A = 0x0A ∧
      issueCheck (opCodeOf 0x0A) (idle 1 0 0 [] [op 0x0A, .answer 1 (.ok (List.replicate 12 0xFF))]) = .ok (job 0x0A .classify 1 12) ∧
      (List.replicate 12 (0xFF : Byte)).length = (job 0x0A .classify 1 12).length) ∧
    (opCodeOf 0x0B = 0x0B ∧
      issueCheck (opCodeOf 0x0B) (idle 64 4 0 [] [op 0x0B, .answer 1 (.ok (List.replicate 300 0xFF))]) =
        .ok (job 0x0B .classify 4 75)) := ⟨⟨by decide, rfl, rfl, by decide⟩, rfl, rfl⟩

theorem witness_FailedTransactionWritesNoResult :
    issueCheck (opCodeOf 0x09) (idle 1 0 0 [] [op 0x09, .answer 1 .fail]) = .ok (job 0x09 .learn 1 5) ∧
    issueCheck (opCodeOf 0x0A) (idle 64 0 0 [] [op 0x0A, .answer 1 .fail]) = .ok (job 0x0A .classify 1 75) ∧
    issueCheck (opCodeOf 0x0B) (idle 1 4 0 [] [op 0x0B, .answer 1 .fail]) = .ok (job 0x0B .classify 4 12) ∧
    (idle 1 0 0 [] [op 0x09, .answer 1 .fail]).inputs =
      [.host (.write .reg 0x00 32 0x09), .answer ((idle 1 0 0 []).calls.length + 1) .fail] := ⟨rfl, rfl, rfl, rfl⟩

theorem witness_ResetRestoresRegisters : (exchanging [.reset]).inputs = .reset :: [] ∧ (encoding 0 3 [.reset]).inputs = .reset :: [] :=
  ⟨rfl, rfl⟩

theorem witness_StepKeepsInvariant :
    ((idle 1 2 0 [0x11] [op 0x03]).Inv ∧ ∃ t, step (idle 1 2 0 [0x11] [op 0x03]) = .next t) ∧
    ((exchanging [.answer 1 .fail]).Inv ∧ ∃ t, step (exchanging [.answer 1 .fail]) = .next t) :=
  ⟨⟨idle_inv _, _, rfl⟩, ⟨exchanging_inv _, _, rfl⟩⟩

theorem witness_StepKeepsProgress :
    (encoding 0 0).Inv ∧ (encoding 0 0).Progress ∧ (∃ t, step (encoding 0 0) = .next t) ∧
    (decoding 0).Progress ∧ (exchanging [.answer 1 .fail]).Progress := by
  refine ⟨encoding_inv.1, fun p hp => absurd hp (by simp [job]), ⟨_, rfl⟩, fun j hj => absurd hj (by omega), ?_⟩
  show ∀ p, p < 12 → _
  decide

theorem witness_OnlyOpWriteStartsAnOperation :
    ∃ t, step (idle 1 0 0 [] [op 0x09]) = .next t ∧ (idle 1 0 0 [] [op 0x09]).major = .notBusy ∧ t.major ≠ .notBusy :=
  ⟨_, rfl, rfl, by decide⟩

/-- A step that changes each buffer. -/
theorem witness_BuffersChangeOnlyByTheirWriters :
    (∃ t, step (idle 1 0 0 [] [.host (.write .vbuf 0 8 1)]) = .next t ∧ t.vbuf ≠ []) ∧
    (∃ t, step (encoding 0 0) = .next t ∧ t.txbuf ≠ []) ∧
    (∃ t, step (exchanging [.answer 1 (.ok [1])]) = .next t ∧ t.rxbuf ≠ []) ∧
    (∃ t, step (decoding 0) = .next t ∧ t.res ≠ []) :=
  ⟨⟨_, rfl, by decide⟩, ⟨_, rfl, by decide⟩, ⟨_, rfl, by decide⟩, ⟨_, rfl, by decide⟩⟩

theorem witness_OneExchangeAtATime :
    (idle 1 2 0 [0x11] [op 0x0A]).Inv ∧ (∃ t, step (idle 1 2 0 [0x11] [op 0x0A]) = .next t ∧ t.calls ≠ []) ∧
    lastLearnSlot.Inv ∧ (∃ t, step lastLearnSlot = .next t ∧ t.calls ≠ []) :=
  ⟨idle_inv _, ⟨_, rfl, by decide⟩, lastLearnSlot_inv, ⟨_, rfl, by decide⟩⟩

theorem witness_OperandsAreFixedWhileBusy :
    (∃ t, step (exchanging [.host (.write .reg 0x08 32 5)]) = .next t) ∧ (exchanging [.host (.write .reg 0x08 32 5)]).stState = .busy ∧
    ∀ rest, (exchanging [.host (.write .reg 0x08 32 5)]).inputs ≠ .reset :: rest :=
  ⟨⟨_, rfl⟩, rfl, fun rest h => by cases h⟩

end Sys2Proof.Tests
end

section
/-! The invariant of the codec is kept by every step (spec/10_state.md). It is taken apart into what bounds the storage and
what ties STATUS to the sequencer; every way an operation goes on or ends is shown once to restore the whole invariant. -/

namespace Sys2Proof.Machine

/-! ### The part of the invariant that speaks of M_MAX, the buffers and LEN -/

/-- Every buffer is canonical and within its size, and LEN is a frame length (R7, R8, R12, R31, R33 to R36). -/
structure State.Bounded (s : State) : Prop where
  mMax_pos : s.mMax ≠ 0
  vbuf_ok : Memory.wf s.vbuf ∧ CellsBelow (vbufSize s) s.vbuf
  txbuf_ok : Memory.wf s.txbuf ∧ CellsBelow (frameMax s) s.txbuf
  rxbuf_ok : Memory.wf s.rxbuf ∧ CellsBelow (frameMax s) s.rxbuf
  res_ok : ResultFile.wf s.res ∧ CellsBelow (resSize s) s.res
  len_ok : s.len.toNat ≤ frameMax s

theorem State.Inv.bounded {s : State} (h : s.Inv) : s.Bounded :=
  ⟨h.mMax_pos, h.vbuf_ok, h.txbuf_ok, h.rxbuf_ok, h.res_ok, h.len_ok⟩

theorem State.Bounded.writeVbuf {s : State} (h : s.Bounded) {off : Nat} (hoff : off < vbufSize s) (b : Byte) :
    (writeVbuf off b s).Bounded :=
  { h with vbuf_ok := ⟨writeVbuf_wf h.vbuf_ok.1 off b, writeCell_below h.vbuf_ok.2 hoff b⟩ }

theorem State.Bounded.writeTxbuf {s : State} (h : s.Bounded) {off : Nat} {bytes : List Byte}
    (hoff : off + bytes.length ≤ frameMax s) : (writeTxbuf off bytes s).Bounded :=
  { h with txbuf_ok := ⟨writeTxbuf_wf h.txbuf_ok.1 off bytes, writeCells_below h.txbuf_ok.2 hoff⟩ }

theorem State.Bounded.writeRxbuf {s : State} (h : s.Bounded) {off : Nat} {bytes : List Byte}
    (hoff : off + bytes.length ≤ frameMax s) : (writeRxbuf off bytes s).Bounded :=
  { h with rxbuf_ok := ⟨writeRxbuf_wf h.rxbuf_ok.1 off bytes, writeCells_below h.rxbuf_ok.2 hoff⟩ }

theorem State.Bounded.writeRes {s : State} (h : s.Bounded) {i : Nat} {entries : List Result}
    (hi : i + entries.length ≤ resSize s) : (writeRes i entries s).Bounded :=
  { h with res_ok := ⟨writeRes_wf h.res_ok.1 i entries, writeCells_below h.res_ok.2 hi⟩ }

/-! ### A running operation -/

/-- An operation is in progress with this job: BUSY, no error, and the job is the one the issue check gives (R39, R130). -/
structure State.Running (job : Job) (s : State) : Prop where
  busy : s.stState = .busy
  noError : s.stErr = .none
  check : issueCheck s.opCode s = .ok job

/-- An operation whose checks passed is running once it is issued (R130, R137). -/
theorem running_issued {code : Byte} {s : State} {job : Job} (h : issueCheck code s = .ok job) :
    (issued code s).Running job := ⟨rfl, rfl, h⟩

theorem State.Running.code_eq {job : Job} {s : State} (h : s.Running job) : job.code = s.opCode :=
  (job_of_issueCheck h.check).1

/-- A state of the invariant whose sequencer works on a checked job has that job running (R25, R26). -/
theorem State.Inv.running {s : State} {job : Job} (h : s.Inv) (hm : s.major ≠ .notBusy)
    (hc : issueCheck s.opCode s = .ok job) : s.Running job := by
  have hb : s.stState = .busy := h.busy_iff.2 hm
  exact ⟨hb, h.err_iff.2 (by simp [hb]), hc⟩

theorem State.Inv.of_encode {s : State} {job : Job} {i k : Nat} (h : s.Inv) (hm : s.major = .encode job i k) :
    s.Running job ∧ codeIsDecode s.opCode = false ∧ i < job.samples ∧ k < job.stride := by
  have hok := h.major_ok
  simp only [State.MajorOk, hm] at hok
  exact ⟨h.running (by simp [hm]) hok.1, hok.2⟩

theorem State.Inv.of_exchange {s : State} {job : Job} (h : s.Inv) (hm : s.major = .exchange job) :
    s.Running job ∧ codeHasExchange s.opCode = true := by
  have hok := h.major_ok
  simp only [State.MajorOk, hm] at hok
  exact ⟨h.running (by simp [hm]) hok.1, hok.2.1⟩

theorem State.Inv.of_decode {s : State} {job : Job} {i : Nat} (h : s.Inv) (hm : s.major = .decode job i) :
    s.Running job ∧ job.kind = .classify ∧ (codeIsDecode s.opCode = true ∨ codeHasExchange s.opCode = true) ∧
      i < job.samples := by
  have hok := h.major_ok
  simp only [State.MajorOk, hm] at hok
  exact ⟨h.running (by simp [hm]) hok.1, hok.2⟩

/-! ### The ways an operation ends and goes on restore the invariant -/

/-- A state of the sequencer at rest meets the invariant if STATE is not BUSY and ERR agrees with it (R25, R26). -/
theorem State.Bounded.inv_notBusy {s : State} (h : s.Bounded) (hm : s.major = .notBusy) (hb : s.stState ≠ .busy)
    (he : s.stErr = .none ↔ s.stState ≠ .error) : s.Inv :=
  { h with
    busy_iff := iff_of_false hb (by simp [hm])
    err_iff := he
    major_ok := by simp only [State.MajorOk, hm] }

/-- A state with an operation running meets the invariant if its major state fits the registers (R25, R26, R39). -/
theorem State.Bounded.inv_running {s : State} {job : Job} (h : s.Bounded) (hr : s.Running job) (hm : s.major ≠ .notBusy)
    (hok : s.MajorOk) : s.Inv :=
  { h with
    busy_iff := iff_of_true hr.busy hm
    err_iff := iff_of_true hr.noError (by simp [hr.busy])
    major_ok := hok }

/-- Completion stores a frame length in LEN and goes to DONE (R138). -/
theorem State.Bounded.inv_complete {s : State} {job : Job} (h : s.Bounded) (hl : job.length ≤ frameMax s) :
    (complete job s).Inv :=
  State.Bounded.inv_notBusy { h with len_ok := len_of_job hl } rfl (by simp [complete]) (by simp [complete])

theorem State.Bounded.inv_raiseError {s : State} (h : s.Bounded) {e : ErrCode} (he : e ≠ .none) : (raiseError e s).Inv :=
  State.Bounded.inv_notBusy { h with } rfl (by simp [raiseError]) (by simp [raiseError, he])

theorem State.Bounded.inv_enterExchange {s : State} {job : Job} (h : s.Bounded) (hr : s.Running job)
    (hx : codeHasExchange s.opCode = true) : (enterExchange job s).Inv :=
  State.Bounded.inv_running (job := job) { h with } { hr with } (by simp [enterExchange])
    ⟨hr.check, hx, List.getLast?_concat⟩

theorem State.Bounded.inv_encode {s : State} {job : Job} {i k : Nat} (h : s.Bounded) (hr : s.Running job)
    (hd : codeIsDecode s.opCode = false) (hi : i < job.samples) (hk : k < job.stride) :
    State.Inv { s with major := .encode job i k } :=
  State.Bounded.inv_running (job := job) { h with } { hr with } (by simp) ⟨hr.check, hd, hi, hk⟩

theorem State.Bounded.inv_decode {s : State} {job : Job} {i : Nat} (h : s.Bounded) (hr : s.Running job)
    (hk : job.kind = .classify) (hd : codeIsDecode s.opCode = true ∨ codeHasExchange s.opCode = true) (hi : i < job.samples) :
    State.Inv { s with major := .decode job i } :=
  State.Bounded.inv_running (job := job) { h with } { hr with } (by simp) ⟨hr.check, hk, hd, hi⟩

/-! ### The sequencer -/

/-- Advancing from a slot inside the frame, to the next slot, the next sample, the exchange or completion (R41, R102). -/
theorem State.Bounded.inv_advanceSlot {s : State} {job : Job} {i k : Nat} (h : s.Bounded) (hr : s.Running job)
    (hd : codeIsDecode s.opCode = false) (hi : i < job.samples) : (advanceSlot job i k s).Inv := by
  obtain ⟨hcode, hstride, -⟩ := job_of_issueCheck hr.check
  rcases advanceSlot_cases job i k s with ⟨hk, e⟩ | ⟨-, hi', e⟩ | ⟨-, -, hx, e⟩ | ⟨-, -, -, e⟩ <;> rw [e]
  · exact h.inv_encode hr hd hi hk
  · exact h.inv_encode hr hd hi' (hstride ▸ strideOf_pos _ _)
  · exact h.inv_enterExchange hr (hcode ▸ hx)
  · exact h.inv_complete (job_fits hr.check h.mMax_pos).1

theorem State.Inv.encodeStep {s : State} {job : Job} {i k : Nat} (h : s.Inv) (hm : s.major = .encode job i k) :
    (encodeStep job i k s).Inv := by
  obtain ⟨hr, hd, hi, hk⟩ := h.of_encode hm
  obtain ⟨-, hstride, hlen, -⟩ := job_of_issueCheck hr.check
  obtain ⟨b, hb⟩ := slotByte_some (i := i) (hstride ▸ hk)
  have hslot : i * job.stride + k + [b].length ≤ frameMax s :=
    (slot_lt hlen hi hk).trans_le (job_fits hr.check h.mMax_pos).1
  rw [encodeStep_some hb]
  exact (h.bounded.writeTxbuf hslot).inv_advanceSlot { hr with } hd hi

theorem State.Inv.decodeStep {s : State} {job : Job} {i : Nat} (h : s.Inv) (hm : s.major = .decode job i) :
    (decodeStep job i s).Inv := by
  obtain ⟨hr, hkind, hd, hi⟩ := h.of_decode hm
  obtain ⟨hlen, hsamples⟩ := job_fits hr.check h.mMax_pos
  have hb : (writeRes i [sampleResult job s i] s).Bounded := h.bounded.writeRes (hi.trans_le hsamples)
  simp only [Machine.decodeStep]
  split_ifs with hi'
  · exact hb.inv_decode { hr with } hkind hd hi'
  · exact hb.inv_complete hlen

theorem State.Inv.sequencerStep {s t : State} (h : s.Inv) (hs : sequencerStep s = .next t) : t.Inv := by
  rcases sequencerStep_cases s with ⟨job, i, k, hm, e⟩ | ⟨job, i, hm, e⟩ | ⟨-, e⟩ <;> rw [e] at hs <;> cases hs
  · exact h.encodeStep hm
  · exact h.decodeStep hm
  · exact h

/-! ### The return of an exchange -/

theorem receivedBytes_length (length : Nat) (rx : List Byte) (draw : Nat) :
    (receivedBytes length rx draw).length = length := by simp [receivedBytes]

theorem failedBytes_length (length draw : Nat) : (failedBytes length draw).length = length := by simp [failedBytes]

/-- What follows a successful exchange: completion, or DECODE from entry 0 (R40, R196 to R198). -/
theorem State.Bounded.inv_finishExchange {s : State} {job : Job} (h : s.Bounded) (hr : s.Running job)
    (hx : codeHasExchange s.opCode = true) : (finishExchange job s).Inv := by
  obtain ⟨-, -, -, hsamples, -⟩ := job_of_issueCheck hr.check
  unfold finishExchange
  split
  next => exact h.inv_complete (job_fits hr.check h.mMax_pos).1
  next hk => exact h.inv_decode hr hk (.inr hx) hsamples

theorem State.Inv.receiveOk {s : State} {job : Job} (h : s.Inv) (hm : s.major = .exchange job) (rx : List Byte) :
    (receiveOk job rx s).Inv := by
  obtain ⟨hr, hx⟩ := h.of_exchange hm
  have hb : (writeRxbuf 0 (receivedBytes job.length rx s.draws) s).Bounded :=
    h.bounded.writeRxbuf (by simpa [receivedBytes_length] using (job_fits hr.check h.mMax_pos).1)
  exact State.Bounded.inv_finishExchange { hb with } { hr with } hx

theorem State.Inv.receiveFail {s : State} {job : Job} (h : s.Inv) (hm : s.major = .exchange job) :
    (receiveFail job s).Inv := by
  obtain ⟨hr, -⟩ := h.of_exchange hm
  obtain ⟨hlen, -⟩ := job_fits hr.check h.mMax_pos
  have hb : (writeRxbuf 0 (failedBytes job.length s.draws) s).Bounded :=
    h.bounded.writeRxbuf (by simpa [failedBytes_length] using hlen)
  refine State.Bounded.inv_raiseError ?_ (by simp)
  exact { hb with len_ok := len_of_job hlen }

theorem State.Inv.receiveAnswer {s : State} (h : s.Inv) (call : Nat) (a : Answer) : (receiveAnswer call a s).Inv := by
  rcases receiveAnswer_cases call a s with ⟨job, hm, -, ⟨rx, -, e⟩ | ⟨-, e⟩⟩ | ⟨-, e⟩ <;> rw [e]
  · exact h.receiveOk hm rx
  · exact h.receiveFail hm
  · exact h

/-! ### A write to OP -/

theorem sampleVector_length (s : State) (i : Nat) : (sampleVector s i).length = s.n.toNat := by simp [sampleVector]

theorem multiFrame_sampleVectors_length (s : State) (count : Nat) :
    (multiFrame (sampleVectors s count)).length = count * (s.n.toNat + 11) := by
  have h : ∀ x ∈ (sampleVectors s count).map classifyFrame, x.length = s.n.toNat + 11 := by
    simp [sampleVectors, sampleVector_length]
  rw [multiFrame, flatten_stride_length h]
  simp [sampleVectors]

theorem decodeMulti_length (r : Nat → Byte) (m n : Nat) : (decodeMulti r m n).length = m := by simp [decodeMulti]

/-- L of a single-sample LEARN operation is the length of its frame (R93, R133). -/
theorem jobOf_length_learn {code : Byte} (hm : codeIsMulti code = false) (hk : codeKind code = .learn) (s : State) :
    (jobOf code s).length = s.n.toNat + 4 := by simp [jobOf, hm, hk, strideOf]

/-- L of a single-sample CLASSIFY operation is the length of its frame (R94, R133). -/
theorem jobOf_length_classify {code : Byte} (hm : codeIsMulti code = false) (hk : codeKind code = .classify) (s : State) :
    (jobOf code s).length = s.n.toNat + 11 := by simp [jobOf, hm, hk, strideOf]

/-- L of a MULTI operation is the length of its batch frame (R97, R133). -/
theorem jobOf_length_multi {code : Byte} (hm : codeIsMulti code = true) (hk : codeKind code = .classify) (s : State) :
    (jobOf code s).length = s.m.toNat * (s.n.toNat + 11) := by simp [jobOf, hm, hk, strideOf]

theorem State.Bounded.writeLearnFrame {s : State} (h : s.Bounded) (hn : s.n.toNat + 4 ≤ frameMax s) :
    (writeLearnFrame s).Bounded := h.writeTxbuf (by simpa [sampleVector_length] using hn)

theorem State.Bounded.writeClassifyFrame {s : State} (h : s.Bounded) (hn : s.n.toNat + 11 ≤ frameMax s) :
    (writeClassifyFrame s).Bounded := h.writeTxbuf (by simpa [sampleVector_length] using hn)

theorem State.Bounded.writeMultiFrame {s : State} (h : s.Bounded) (hn : s.m.toNat * (s.n.toNat + 11) ≤ frameMax s) :
    (writeMultiFrame s).Bounded := h.writeTxbuf (by simpa [multiFrame_sampleVectors_length] using hn)

theorem State.Bounded.writeClassifyResult {s : State} (h : s.Bounded) (hM : 1 ≤ resSize s) :
    (writeClassifyResult s).Bounded := h.writeRes (by simpa using hM)

theorem State.Bounded.writeMultiResults {s : State} (h : s.Bounded) (hm : s.m.toNat ≤ resSize s) :
    (writeMultiResults s).Bounded := h.writeRes (by simpa [decodeMulti_length] using hm)

/-- The body of each operation, run at once, leaves the invariant (R151 to R158, R171 to R175, R196 to R198). -/
theorem State.Bounded.inv_operationBody {s : State} {op : Instr} (h : s.Bounded) (hf : op.format = .hostOp)
    (hr : s.Running (jobOf (encodeByte op) s)) (hcode : s.opCode = encodeByte op) :
    (operationBody op (jobOf (encodeByte op) s) s).Inv := by
  obtain ⟨hlen, hsamples⟩ := job_fits hr.check h.mMax_pos
  have hlearn := fun hm hk => (jobOf_length_learn (code := encodeByte op) hm hk s).symm.trans_le hlen
  have hclassify := fun hm hk => (jobOf_length_classify (code := encodeByte op) hm hk s).symm.trans_le hlen
  have hmulti := fun hm hk => (jobOf_length_multi (code := encodeByte op) hm hk s).symm.trans_le hlen
  have hx : codeHasExchange s.opCode = codeHasExchange (encodeByte op) := by rw [hcode]
  cases op
  case encLearn => exact (h.writeLearnFrame (hlearn rfl rfl)).inv_complete hlen
  case encClassify => exact (h.writeClassifyFrame (hclassify rfl rfl)).inv_complete hlen
  case encClassifyMulti => exact (h.writeMultiFrame (hmulti rfl rfl)).inv_complete hlen
  case decClassify => exact (h.writeClassifyResult hsamples).inv_complete hlen
  case decClassifyMulti => exact (h.writeMultiResults hsamples).inv_complete hlen
  case txnLearn => exact (h.writeLearnFrame (hlearn rfl rfl)).inv_enterExchange { hr with } hx
  case txnClassify => exact (h.writeClassifyFrame (hclassify rfl rfl)).inv_enterExchange { hr with } hx
  case txnClassifyMulti => exact (h.writeMultiFrame (hmulti rfl rfl)).inv_enterExchange { hr with } hx
  all_goals cases hf

/-- An operation left in its first major state stands at slot (0, 0) or at entry 0 (R137). -/
theorem State.Bounded.inv_enterFirstMajor {s : State} {job : Job} (h : s.Bounded) (hr : s.Running job) :
    (enterFirstMajor job s).Inv := by
  obtain ⟨hcode, hstride, -, hsamples, -⟩ := job_of_issueCheck hr.check
  unfold enterFirstMajor
  rw [hcode]
  split_ifs with hd
  · exact h.inv_decode hr (kind_of_decode hr.check hd) (.inl hd) hsamples
  · exact h.inv_encode hr (by simpa using hd) hsamples (hstride ▸ strideOf_pos _ _)

theorem State.Inv.startOperation {s : State} {x : Word} {body : Job → State → State} (h : s.Inv)
    {s₀ : State} (hbody : IssueBody x s₀ body) : (startOperation (opCodeOf x) body s).Inv := by
  have hi : (issued (opCodeOf x) s).Bounded := { h.bounded with }
  rcases startOperation_cases (opCodeOf x) body s with ⟨-, e⟩ | ⟨-, er, hc, e⟩ | ⟨-, job, hc, e⟩ <;> rw [e]
  · exact { h with }
  · exact hi.inv_raiseError (issueCheck_error_ne_none hc)
  · have hr : (issued (opCodeOf x) s).Running job := running_issued hc
    rcases hbody with rfl | ⟨op, -, hf, hcode, rfl, -⟩
    · exact hi.inv_enterFirstMajor hr
    · obtain rfl : job = jobOf (opCodeOf x) s := (issueCheck_ok hc).1
      rw [← hcode] at hi hr ⊢
      exact hi.inv_operationBody hf hr rfl

/-! ### A host write -/

/-- Not BUSY the sequencer is at rest (R25). -/
theorem State.Inv.notBusy {s : State} (h : s.Inv) (hb : s.stState ≠ .busy) : s.major = .notBusy := by
  by_contra hm; exact hb (h.busy_iff.2 hm)

/-- Not BUSY the invariant needs no more than the bounds of what is written (R67). -/
theorem State.Inv.of_idle {s t : State} (h : s.Inv) (hb : s.stState ≠ .busy) (ht : t.Bounded) (hst : t.stState = s.stState)
    (her : t.stErr = s.stErr) (hm : t.major = s.major) : t.Inv :=
  ht.inv_notBusy (hm.trans (h.notBusy hb)) (hst ▸ hb) (by rw [hst, her]; exact h.err_iff)

theorem State.Inv.writeStatus {s : State} (h : s.Inv) (data : Word) : (writeStatus data s).Inv := by
  unfold Machine.writeStatus
  split
  · exact { h with }
  · exact h

theorem step_write_inv {s t : State} {rest : List Input} {sp : Space} {off width : Nat} {data : Word} (h : s.Inv)
    (hin : s.inputs = .host (.write sp off width data) :: rest ∨ s.inputs = .hostOverlapped (.write sp off width data) :: rest)
    (hs : step s = .next t) : t.Inv := by
  have h' : State.Inv { s with inputs := rest } := { h with }
  rcases step_write hin with ⟨-, -, -, e⟩ | ⟨-, ⟨-, e⟩ | ⟨hb, ⟨-, -, -, body, hbody, e⟩ | ⟨n, e⟩ | ⟨m, e⟩ | ⟨c, e⟩ |
    ⟨-, -, hoff, e⟩ | ⟨-, -, hoff, e⟩ | e⟩⟩ <;> rw [e] at hs <;> cases hs
  · exact h'.writeStatus data
  · exact { h with }
  · exact h'.startOperation hbody
  · exact h.of_idle hb { h.bounded with } rfl rfl rfl
  · exact h.of_idle hb { h.bounded with } rfl rfl rfl
  · exact h.of_idle hb { h.bounded with } rfl rfl rfl
  · exact h.of_idle hb (h'.bounded.writeVbuf hoff _) rfl rfl rfl
  · exact h.of_idle hb (h'.bounded.writeRxbuf hoff) rfl rfl rfl
  · exact h'

/-! ### Reset, and the step -/

/-- Reset keeps M_MAX and empties the rest (R250, R251). -/
theorem resetMachine_inv {s : State} (h : s.mMax ≠ 0) : (resetMachine s).Inv :=
  State.Bounded.inv_notBusy
    { mMax_pos := h
      vbuf_ok := by simp
      txbuf_ok := by simp
      rxbuf_ok := by simp
      res_ok := by simp
      len_ok := by simp } rfl (by simp) (by simp)

/-- Settles O54, by the inputs a step can take: each restores the invariant by a lemma of its own. -/
theorem stepKeepsInvariant : Obligations.StepKeepsInvariant := by
  unfold Obligations.StepKeepsInvariant
  intro s t h hs
  have h' : ∀ rest, State.Inv { s with inputs := rest } := fun _ => { h with }
  rcases step_cases s with ⟨rest, hturn⟩ | ⟨rest, sp, off, width, data, hin⟩ | ⟨rest, sp, off, width, hin⟩ |
    ⟨rest, call, a, -, e⟩ | ⟨rest, -, e⟩
  · exact (h' rest).sequencerStep (step_turn hturn ▸ hs)
  · exact step_write_inv h hin hs
  · obtain ⟨w, d, e, -⟩ := hostRead_eq sp off width { s with inputs := rest }
    rw [step_read hin, e] at hs; cases hs
    exact { h with }
  · rw [e] at hs; cases hs
    exact (h' rest).receiveAnswer call a
  · rw [e] at hs; cases hs
    exact resetMachine_inv h.mMax_pos

end Sys2Proof.Machine
end

section
/-! The host interface (spec/10_state.md, spec/20_memory.md): what a read of a register or a buffer returns, what a write to one
stores, and which steps can change OVR, a buffer or the reset number. -/

namespace Sys2Proof.Machine

/-! ### Numeric values of words built from fields -/

/-- The number a concatenation stands for. -/
theorem toNat_append_add {m n : Nat} (x : BitVec m) (y : BitVec n) : (x ++ y).toNat = x.toNat * 2 ^ n + y.toNat := by
  rw [BitVec.toNat_append, ← Nat.shiftLeft_add_eq_or_of_lt y.isLt, Nat.shiftLeft_eq]

/-- A word is named by the number it stands for. -/
theorem eq_ofNat_of_toNat {w k : Nat} {x : BitVec w} (h : x.toNat = k) : x = BitVec.ofNat w k := by
  subst h; exact (BitVec.ofNat_toNat w x).trans (BitVec.setWidth_eq x) |>.symm

/-- The STATUS word as a number: STATE in [1:0], ERR in [7:4], OVR in bit 8 (R24). -/
theorem statusWord_eq_ofNat (s : State) :
    statusWord s = BitVec.ofNat 32 (s.stState.code.toNat + 16 * s.stErr.code.toNat + 256 * s.ovr.toNat) := by
  apply eq_ofNat_of_toNat
  simp only [statusWord, toNat_append_add, BitVec.toNat_ofBool, BitVec.ofNat_eq_ofNat, BitVec.toNat_ofNat]
  omega

/-- The CAPS word as a number: N_MAX in [23:16], M_MAX in [15:0] (R32). -/
theorem capsWord_eq_ofNat (s : State) : capsWord s = BitVec.ofNat 32 (64 * 65536 + s.mMax.toNat) := by
  apply eq_ofNat_of_toNat
  rw [capsWord, toNat_append_add, toNat_append_add]
  simp [nMax]

/-- The word of a RES entry as a number: distance in [31:16], category in [15:0] (R33). -/
theorem resultWord_eq_ofNat (x : Result) :
    resultWord x = BitVec.ofNat 32 (x.distance.toNat * 65536 + x.category.toNat) := by
  apply eq_ofNat_of_toNat
  exact toNat_append_add x.distance x.category

/-- The low bits of a word as a number. -/
theorem extractLsb'_zero_eq_ofNat (x : Word) (w : Nat) : x.extractLsb' 0 w = BitVec.ofNat w (x.toNat % 2 ^ w) := by
  apply BitVec.eq_of_toNat_eq; simp

/-! ### Reads -/

/-- A read that does not reach an unspecified value returns the word `readWord` gives (R61 to R63, R67). -/
theorem step_read_unguarded {s : State} {rest : List Input} {sp : Space} {off width : Nat}
    (h : s.inputs = .host (.read sp off width) :: rest ∨ s.inputs = .hostOverlapped (.read sp off width) :: rest)
    (hg : s.stState ≠ .busy ∨ readsGuarded sp off width s = false) :
    step s = .next { s with inputs := rest, readData := readWord sp off width s } := by
  have hn : ¬ (s.stState = .busy ∧ readsGuarded sp off width s = true) := by
    rintro ⟨hb, hr⟩; rcases hg with hg | hg
    · exact hg hb
    · simp [hg] at hr
  rw [step_read h]
  exact congrArg _ (if_neg hn)

/-- A read of a register other than LEN, in every STATE (R22, R67). -/
theorem step_read_register {s : State} {rest : List Input} {off : Nat}
    (h : s.inputs = .host (.read .reg off 32) :: rest ∨ s.inputs = .hostOverlapped (.read .reg off 32) :: rest)
    (hg : s.stState ≠ .busy ∨ off ≠ 0x14) : step s = .next { s with inputs := rest, readData := registerWord off s } :=
  step_read_unguarded h (hg.imp_right fun ho => by simp [readsGuarded, ho])

/-- Settles O36: each register's word, as a number. -/
theorem registerReads : Obligations.RegisterReads := by
  unfold Obligations.RegisterReads
  intro s rest off h
  have hstep : ∀ {w : Word}, s.stState ≠ .busy ∨ off ≠ 0x14 → registerWord off s = w →
      step s = .next { s with inputs := rest, readData := w } := fun hg hw => hw ▸ step_read_register h hg
  refine ⟨?_, ?_, ?_, ?_, ?_, ?_, ?_⟩ <;> rintro rfl
  · exact hstep (.inr (by decide)) (BitVec.ofNat_toNat 32 s.opCode).symm
  · exact hstep (.inr (by decide)) (statusWord_eq_ofNat s)
  · exact hstep (.inr (by decide)) (BitVec.ofNat_toNat 32 s.n).symm
  · exact hstep (.inr (by decide)) (BitVec.ofNat_toNat 32 s.m).symm
  · exact hstep (.inr (by decide)) (BitVec.ofNat_toNat 32 s.cat).symm
  · exact fun hb => hstep (.inl hb) rfl
  · exact hstep (.inr (by decide)) (capsWord_eq_ofNat s)

/-- Settles O37: each space's word, as a number. -/
theorem bufferAndResultReads : Obligations.BufferAndResultReads := by
  unfold Obligations.BufferAndResultReads
  intro s rest sp off width h hb
  have hstep : ∀ {w : Word}, readWord sp off width s = w → step s = .next { s with inputs := rest, readData := w } :=
    fun hw => hw ▸ step_read_unguarded h (.inl hb)
  refine ⟨?_, ?_, ?_, ?_⟩
  · rintro rfl rfl hoff
    exact hstep ((if_pos ⟨rfl, hoff⟩).trans (BitVec.ofNat_toNat 32 _).symm)
  · rintro rfl rfl hoff
    exact hstep ((if_pos ⟨rfl, hoff⟩).trans (BitVec.ofNat_toNat 32 _).symm)
  · rintro rfl rfl hoff
    exact hstep ((if_pos ⟨rfl, hoff⟩).trans (BitVec.ofNat_toNat 32 _).symm)
  · rintro i rfl rfl rfl hi
    have hdiv : 4 * i / 4 = i := by omega
    refine hstep ((if_pos ⟨rfl, by omega, hdiv.symm ▸ hi⟩).trans ?_)
    rw [hdiv, resultWord_eq_ofNat]

/-! ### Writes -/

/-- A host write while not BUSY, other than a 32-bit write to STATUS, is what `writeIdle` does at its place; only a write to OP
depends on the granularity (R60 to R63). -/
theorem step_write_idle {s : State} {rest : List Input} {sp : Space} {off width : Nat} {data : Word}
    (h : s.inputs = .host (.write sp off width data) :: rest ∨ s.inputs = .hostOverlapped (.write sp off width data) :: rest)
    (hb : s.stState ≠ .busy) (hn : ¬ (sp = .reg ∧ width = 32 ∧ off = 0x04)) :
    ∃ op, step s = writeIdle op sp off width data { s with inputs := rest } := by
  have hw : ∀ op, hostWrite op sp off width data { s with inputs := rest } =
      writeIdle op sp off width data { s with inputs := rest } := fun op => (if_neg hn).trans (if_neg hb)
  rcases h with h | h
  · exact ⟨writeOp, (step_cons h).trans (hw _)⟩
  · exact ⟨writeOpOverlapped, (step_cons h).trans (hw _)⟩

/-- A byte write inside VBUF while not BUSY (R34, R62). -/
theorem step_write_vbuf {s : State} {rest : List Input} {off : Nat} {data : Word}
    (h : s.inputs = .host (.write .vbuf off 8 data) :: rest ∨ s.inputs = .hostOverlapped (.write .vbuf off 8 data) :: rest)
    (hb : s.stState ≠ .busy) (hoff : off < vbufSize s) :
    step s = .next (writeVbuf off (data.extractLsb' 0 8) { s with inputs := rest }) := by
  obtain ⟨op, e⟩ := step_write_idle h hb (by simp)
  exact e.trans (if_pos ⟨rfl, hoff⟩)

/-- A byte write inside RXBUF while not BUSY (R36, R62). -/
theorem step_write_rxbuf {s : State} {rest : List Input} {off : Nat} {data : Word}
    (h : s.inputs = .host (.write .rxbuf off 8 data) :: rest ∨ s.inputs = .hostOverlapped (.write .rxbuf off 8 data) :: rest)
    (hb : s.stState ≠ .busy) (hoff : off < frameMax s) :
    step s = .next (writeRxbuf off [data.extractLsb' 0 8] { s with inputs := rest }) := by
  obtain ⟨op, e⟩ := step_write_idle h hb (by simp)
  exact e.trans (if_pos ⟨rfl, hoff⟩)

/-- Settles O33: the write reaches its register's arm, and the stored field is the low bits as a number. -/
theorem operandRegisterWrites : Obligations.OperandRegisterWrites := by
  unfold Obligations.OperandRegisterWrites
  intro s rest off data h hb
  have low8 : data.extractLsb' 0 8 = BitVec.ofNat 8 (data.toNat % 256) := extractLsb'_zero_eq_ofNat data 8
  have low16 : data.extractLsb' 0 16 = BitVec.ofNat 16 (data.toNat % 65536) := extractLsb'_zero_eq_ofNat data 16
  rw [← low8, ← low16]
  refine ⟨?_, ?_, ?_⟩ <;> rintro rfl <;> obtain ⟨op, e⟩ := step_write_idle h hb (by decide) <;> exact e

/-- Settles O40, by the laws of a read after a write of one cell. -/
theorem bufferWriteStoresOneByte : Obligations.BufferWriteStoresOneByte := by
  unfold Obligations.BufferWriteStoresOneByte
  intro s rest sp off data h hb
  constructor <;> rintro rfl hoff
  · refine ⟨_, step_write_vbuf h hb hoff, ?_, fun p hp => ?_, rfl⟩
    · simp [readVbuf_writeVbuf]
    · rw [readVbuf_writeVbuf, if_neg hp]; rfl
  · refine ⟨_, step_write_rxbuf h hb hoff, ?_, fun p hp => ?_, rfl⟩
    · simpa using readRxbuf_writeRxbuf_in (s := { s with inputs := rest }) (bytes := [data.extractLsb' 0 8]) (le_refl off)
        (by simp)
    · rw [readRxbuf_writeRxbuf_out (by simp; omega)]; rfl

/-- In every STATE, BUSY included, a write to OP of an assigned code is the meaning of its instruction (R130). -/
theorem hostWrite_op {x : Word} {i : Instr} (h : decodeOpWord x = .ok i) (s : State) :
    hostWrite writeOp .reg 0x00 32 x s = exec i s := by
  have hw : writeOp x s = exec i s := by simp only [writeOp, h]
  by_cases hb : s.stState = .busy
  · rw [exec_hostOp (decodeByte_hostOp_eq h).1, startOperation_busy hb]
    exact if_pos hb
  · exact (if_neg hb).trans hw

/-- Settles O11: the input is taken, and a write to OP runs its instruction whether the codec is BUSY or not. -/
theorem stepRunsTheIssuedOperation : Obligations.StepRunsTheIssuedOperation := by
  unfold Obligations.StepRunsTheIssuedOperation
  intro s rest x i h hd
  exact (step_cons h).trans (hostWrite_op hd _)

/-! ### What changes OVR -/

theorem writeStatus_eq (data : Word) (s : State) : writeStatus data s = { s with ovr := s.ovr && !data.getLsbD 8 } := by
  unfold writeStatus
  cases data.getLsbD 8 with
  | true => exact congrArg (fun b => { s with ovr := b }) (Bool.and_false _).symm
  | false => exact congrArg (fun b => { s with ovr := b }) (Bool.and_true _).symm

theorem writeStatus_ovr (data : Word) (s : State) : (writeStatus data s).ovr = (s.ovr && !data.getLsbD 8) := by
  rw [writeStatus_eq]

theorem encodeStep_ovr (job : Job) (i k : Nat) (s : State) : (encodeStep job i k s).ovr = s.ovr := by
  obtain ⟨_, _, _, _, _, _, e⟩ := encodeStep_shape job i k s
  rw [e]

theorem decodeStep_ovr (job : Job) (i : Nat) (s : State) : (decodeStep job i s).ovr = s.ovr := by
  obtain ⟨_, _, _, _, _, e⟩ := decodeStep_shape job i s
  rw [e]

theorem receiveAnswer_ovr (call : Nat) (a : Answer) (s : State) : (receiveAnswer call a s).ovr = s.ovr := by
  obtain ⟨_, _, _, _, _, _, e, -⟩ := receiveAnswer_shape call a s
  rw [e]

theorem hostRead_ovr (sp : Space) (off width : Nat) (s : State) : (hostRead sp off width s).ovr = s.ovr := by
  obtain ⟨_, _, e, -⟩ := hostRead_eq sp off width s
  rw [e]

theorem operationBody_ovr (op : Instr) (job : Job) (s : State) : (operationBody op job s).ovr = s.ovr := by
  cases op <;> rfl

theorem enterFirstMajor_ovr (job : Job) (s : State) : (enterFirstMajor job s).ovr = s.ovr := by
  unfold enterFirstMajor
  split <;> rfl

/-- An accepted write to OP leaves OVR, whether its check fails or its operation runs (R27). -/
theorem startOperation_ovr {x : Word} {s₀ s : State} {body : Job → State → State} (hbody : IssueBody x s₀ body)
    (hb : s.stState ≠ .busy) (code : Byte) : (startOperation code body s).ovr = s.ovr := by
  rcases startOperation_cases code body s with ⟨hb', -⟩ | ⟨-, er, -, e⟩ | ⟨-, job, -, e⟩
  · exact absurd hb' hb
  · rw [e]; rfl
  · rw [e]
    rcases hbody with rfl | ⟨op, -, -, -, rfl, -⟩
    · exact enterFirstMajor_ovr job _
    · exact operationBody_ovr op job _

/-- A step of the sequencer leaves OVR, the completion of an operation included (R27). -/
theorem step_turn_ovr {s t : State} {rest : List Input} (h : SequencerTurn s rest) (hs : step s = .next t) : t.ovr = s.ovr := by
  rcases step_sequencer h with ⟨job, i, k, -, e⟩ | ⟨job, i, -, e⟩ | ⟨-, e⟩ <;> rw [e] at hs <;> cases hs
  · exact encodeStep_ovr job i k _
  · exact decodeStep_ovr job i _
  · rfl

/-- A host write changes OVR in two ways: one ignored while BUSY sets it, a 1 in bit 8 written to STATUS clears it (R27). -/
theorem step_write_ovr {s t : State} {rest : List Input} {sp : Space} {off width : Nat} {data : Word}
    (h : s.inputs = .host (.write sp off width data) :: rest ∨ s.inputs = .hostOverlapped (.write sp off width data) :: rest)
    (hs : step s = .next t) (hne : t.ovr ≠ s.ovr) :
    (t.ovr = true ∧ s.stState = .busy ∧ ¬ (sp = .reg ∧ width = 32 ∧ off = 0x04)) ∨
    (t.ovr = false ∧ sp = .reg ∧ width = 32 ∧ off = 0x04 ∧ data.getLsbD 8 = true) := by
  rcases step_write h with ⟨hsp, hw, hoff, e⟩ | ⟨hn, ⟨hb, e⟩ | ⟨hb, ⟨-, -, -, body, hbody, e⟩ | ⟨n, e⟩ | ⟨m, e⟩ | ⟨c, e⟩ |
    ⟨-, -, -, e⟩ | ⟨-, -, -, e⟩ | e⟩⟩ <;> rw [e] at hs <;> cases hs
  · rw [writeStatus_ovr] at hne ⊢
    cases hd : data.getLsbD 8 with
    | false => exact absurd (Bool.and_true _) (hd ▸ hne)
    | true => exact .inr ⟨Bool.and_false _, hsp, hw, hoff, rfl⟩
  · exact .inl ⟨rfl, hb, hn⟩
  · exact absurd (startOperation_ovr hbody (s := { s with inputs := rest }) hb _) hne
  all_goals exact absurd rfl hne

/-- Settles O32: a write to STATUS and an ignored write are computed; the inputs that can change OVR are the ones its rule names. -/
theorem overrunFlagFollowsItsRule : Obligations.OverrunFlagFollowsItsRule := by
  unfold Obligations.OverrunFlagFollowsItsRule
  constructor
  · intro s rest sp off width data h
    rcases step_write h with ⟨hsp, hw, hoff, e⟩ | ⟨hn, hrest⟩
    · exact ⟨fun _ hn => absurd ⟨hsp, hw, hoff⟩ hn, fun _ _ _ => e.trans (congrArg _ (writeStatus_eq _ _))⟩
    · refine ⟨fun hb _ => ?_, fun hsp hw hoff => absurd ⟨hsp, hw, hoff⟩ hn⟩
      rcases hrest with ⟨-, e⟩ | ⟨hb', -⟩
      · exact e
      · exact absurd hb hb'
  · intro s t hs hne
    rcases step_cases s with ⟨rest, hturn⟩ | ⟨rest, sp, off, width, data, hin⟩ | ⟨rest, sp, off, width, hin⟩ |
      ⟨rest, call, a, -, e⟩ | ⟨rest, hin, e⟩
    · exact absurd (step_turn_ovr hturn hs) hne
    · exact ⟨rest, .inr ⟨sp, off, width, data, hin, step_write_ovr hin hs hne⟩⟩
    · rw [step_read hin] at hs; cases hs
      exact absurd (hostRead_ovr sp off width _) hne
    · rw [e] at hs; cases hs
      exact absurd (receiveAnswer_ovr call a _) hne
    · rw [e] at hs; cases hs
      exact ⟨rest, .inl ⟨hin, rfl⟩⟩

/-! ### What changes a buffer -/

/-- A step of the sequencer writes TXBUF in ENCODE alone and RES in DECODE alone (R102, R103). -/
theorem step_turn_buffers {s t : State} {rest : List Input} (h : SequencerTurn s rest) (hs : step s = .next t) :
    t.epoch = s.epoch ∧ t.vbuf = s.vbuf ∧ t.rxbuf = s.rxbuf ∧
    (t.txbuf ≠ s.txbuf → ∃ job i k, s.major = .encode job i k) ∧ (t.res ≠ s.res → ∃ job i, s.major = .decode job i) := by
  rcases step_sequencer h with ⟨job, i, k, hm, e⟩ | ⟨job, i, hm, e⟩ | ⟨-, e⟩
  · obtain ⟨_, _, _, _, _, _, he⟩ := encodeStep_shape job i k { s with inputs := rest }
    rw [e, he] at hs; cases hs
    exact ⟨rfl, rfl, rfl, fun _ => ⟨job, i, k, hm⟩, (absurd rfl ·)⟩
  · obtain ⟨_, _, _, _, _, he⟩ := decodeStep_shape job i { s with inputs := rest }
    rw [e, he] at hs; cases hs
    exact ⟨rfl, rfl, rfl, (absurd rfl ·), fun _ => ⟨job, i, hm⟩⟩
  · rw [e] at hs; cases hs
    exact ⟨rfl, rfl, rfl, (absurd rfl ·), (absurd rfl ·)⟩

/-- A host write changes VBUF or RXBUF by a byte write inside it, TXBUF or RES by a write to OP run at once, each while not BUSY
(R62, R67, R130). -/
theorem step_write_buffers {s t : State} {rest : List Input} {sp : Space} {off width : Nat} {data : Word}
    (h : s.inputs = .host (.write sp off width data) :: rest ∨ s.inputs = .hostOverlapped (.write sp off width data) :: rest)
    (hs : step s = .next t) :
    t.epoch = s.epoch ∧
    (t.vbuf ≠ s.vbuf → s.stState ≠ .busy ∧ sp = .vbuf ∧ width = 8 ∧ off < vbufSize s) ∧
    (t.txbuf ≠ s.txbuf → s.stState ≠ .busy ∧ ∃ op r, decodeOpWord data = .ok op ∧
      s.inputs = .host (.write .reg 0x00 32 data) :: r ∧ op ≠ .decClassify ∧ op ≠ .decClassifyMulti) ∧
    (t.rxbuf ≠ s.rxbuf → s.stState ≠ .busy ∧ sp = .rxbuf ∧ width = 8 ∧ off < frameMax s) ∧
    (t.res ≠ s.res → s.stState ≠ .busy ∧ ∃ op r, decodeOpWord data = .ok op ∧
      s.inputs = .host (.write .reg 0x00 32 data) :: r ∧ (op = .decClassify ∨ op = .decClassifyMulti)) := by
  rcases step_write h with ⟨-, -, -, e⟩ | ⟨-, ⟨-, e⟩ | ⟨hb, ⟨-, -, -, body, hbody, e⟩ | ⟨n, e⟩ | ⟨m, e⟩ | ⟨c, e⟩ |
    ⟨hsp, hw, hoff, e⟩ | ⟨hsp, hw, hoff, e⟩ | e⟩⟩ <;> rw [e] at hs <;> cases hs
  · rw [writeStatus_eq]
    exact ⟨rfl, (absurd rfl ·), (absurd rfl ·), (absurd rfl ·), (absurd rfl ·)⟩
  · exact ⟨rfl, (absurd rfl ·), (absurd rfl ·), (absurd rfl ·), (absurd rfl ·)⟩
  · obtain ⟨_, _, _, _, _, _, _, _, _, he, htx, hres⟩ := startOperation_shape data s body hbody rest
    rw [he]
    exact ⟨rfl, (absurd rfl ·), htx, (absurd rfl ·), hres⟩
  iterate 3 exact ⟨rfl, (absurd rfl ·), (absurd rfl ·), (absurd rfl ·), (absurd rfl ·)⟩
  · exact ⟨rfl, fun _ => ⟨hb, hsp, hw, hoff⟩, (absurd rfl ·), (absurd rfl ·), (absurd rfl ·)⟩
  · exact ⟨rfl, (absurd rfl ·), (absurd rfl ·), fun _ => ⟨hb, hsp, hw, hoff⟩, (absurd rfl ·)⟩
  · exact ⟨rfl, (absurd rfl ·), (absurd rfl ·), (absurd rfl ·), (absurd rfl ·)⟩

/-- Settles O58: the inputs a step can take, each with the buffers it can write. -/
theorem buffersChangeOnlyByTheirWriters : Obligations.BuffersChangeOnlyByTheirWriters := by
  unfold Obligations.BuffersChangeOnlyByTheirWriters
  intro s t hs hreset
  rcases step_cases s with ⟨rest, hturn⟩ | ⟨rest, sp, off, width, data, hin⟩ | ⟨rest, sp, off, width, hin⟩ |
    ⟨rest, call, a, hin, e⟩ | ⟨rest, hin, -⟩
  · have hwhen : s.inputs = [] ∨ ∃ rest, s.inputs = .tick :: rest := hturn.imp And.left fun h => ⟨rest, h⟩
    obtain ⟨hepoch, hv, hrx, htx, hres⟩ := step_turn_buffers hturn hs
    refine ⟨hepoch, (absurd hv ·), fun hne => .inl ?_, (absurd hrx ·), fun hne => .inl ?_⟩
    · obtain ⟨job, i, k, hm⟩ := htx hne
      exact ⟨job, i, k, hm, hwhen⟩
    · obtain ⟨job, i, hm⟩ := hres hne
      exact ⟨job, i, hm, hwhen⟩
  · obtain ⟨hepoch, hv, htx, hrx, hres⟩ := step_write_buffers hin hs
    refine ⟨hepoch, fun hne => ?_, fun hne => .inr ?_, fun hne => .inr ?_, fun hne => .inr ?_⟩
    · obtain ⟨hb, rfl, rfl, hoff⟩ := hv hne
      exact ⟨rest, off, data, hb, hoff, hin⟩
    · obtain ⟨hb, op, r, hd, hop, hne⟩ := htx hne
      exact ⟨data, r, op, hop, hb, hd, hne⟩
    · obtain ⟨hb, rfl, rfl, hoff⟩ := hrx hne
      exact ⟨rest, off, data, hb, hoff, hin⟩
    · obtain ⟨hb, op, r, hd, hop, heq⟩ := hres hne
      exact ⟨data, r, op, hop, hb, hd, heq⟩
  · obtain ⟨_, _, he, -⟩ := hostRead_eq sp off width { s with inputs := rest }
    rw [step_read hin, he] at hs; cases hs
    exact ⟨rfl, (absurd rfl ·), (absurd rfl ·), (absurd rfl ·), (absurd rfl ·)⟩
  · obtain ⟨_, _, _, _, _, _, he, hrx⟩ := receiveAnswer_shape call a { s with inputs := rest }
    rw [e, he] at hs; cases hs
    refine ⟨rfl, (absurd rfl ·), (absurd rfl ·), fun hne => .inl ?_, (absurd rfl ·)⟩
    obtain ⟨job, hm, rfl⟩ := hrx hne
    exact ⟨job, a, rest, hm, hin⟩
  · exact absurd hin (hreset rest)

end Sys2Proof.Machine
end

section
/-! Memory rules of the host interface (spec/20_memory.md): the accesses that are ignored, the reads that are unspecified while
BUSY, that a read has no side effect, and that no access or any other step stops the machine. -/

namespace Sys2Proof.Machine

/-! ### Ignored writes -/

/-- Misaligned offsets of REG, LEN, CAPS and every offset beyond take no write (R22, R61). -/
theorem writeRegister_ignored {off : Nat} (h : off % 4 ≠ 0 ∨ 0x14 ≤ off)
    (op : Word → State → Host.Outcome State Fault Refusal) (data : Word) (s : State) :
    writeRegister op off data s = .next s := by
  unfold writeRegister
  rw [if_neg (by omega), if_neg (by omega), if_neg (by omega), if_neg (by omega)]

/-- Settles O34: the write is none to STATUS, so `writeIdle` takes it, and each space has its branch for what it ignores. -/
theorem ignoredWriteChangesNothing : Obligations.IgnoredWriteChangesNothing := by
  unfold Obligations.IgnoredWriteChangesNothing
  intro s rest sp off width data h hb hi
  have hn : ¬ (sp = .reg ∧ width = 32 ∧ off = 0x04) := by
    rintro ⟨rfl, rfl, rfl⟩
    simp at hi
  obtain ⟨op, e⟩ := step_write_idle h hb hn
  rw [e]
  rcases hi with ⟨rfl, hi⟩ | ⟨rfl, hi⟩ | ⟨rfl, hi⟩ | rfl | rfl
  · by_cases hw : width = 32
    · exact (if_pos hw).trans (writeRegister_ignored (hi.resolve_left (not_not_intro hw)) _ _ _)
    · exact if_neg hw
  · exact if_neg (not_and_or.2 (hi.imp_right Nat.not_lt.2))
  · exact if_neg (not_and_or.2 (hi.imp_right Nat.not_lt.2))
  · rfl
  · rfl

/-! ### Reads that are ignored, and reads that are unspecified while BUSY -/

/-- The reads R67 leaves unspecified while BUSY: LEN, a RES entry, a byte of a buffer. -/
theorem readsGuarded_iff {sp : Space} {off width : Nat} {s : State} :
    readsGuarded sp off width s = true ↔
      (sp = .reg ∧ width = 32 ∧ off = 0x14 ∨ sp = .res ∧ width = 32 ∧ off % 4 = 0 ∧ off / 4 < s.mMax.toNat) ∨
      (sp = .vbuf ∧ width = 8 ∧ off < s.mMax.toNat * 64 ∨
        (sp = .txbuf ∨ sp = .rxbuf) ∧ width = 8 ∧ off < s.mMax.toNat * 75) := by
  have hv : vbufSize s = s.mMax.toNat * 64 := rfl
  have hf : frameMax s = s.mMax.toNat * 75 := rfl
  have hr : resSize s = s.mMax.toNat := rfl
  cases sp <;> simp only [readsGuarded, Bool.and_eq_true, beq_iff_eq, decide_eq_true_eq, hv, hf, hr] <;> simp [and_assoc]

/-- Outside REG a read that reaches no byte and no entry returns 0 (R62, R63). -/
theorem readWord_unguarded {sp : Space} {off width : Nat} {s : State} (hsp : sp ≠ .reg)
    (hg : readsGuarded sp off width s = false) : readWord sp off width s = 0 := by
  cases sp
  case reg => exact absurd rfl hsp
  all_goals exact if_neg (by simpa [readsGuarded] using hg)

/-- Misaligned and unassigned offsets of REG read as 0 (R61). -/
theorem registerWord_unassigned {off : Nat} (h : off % 4 ≠ 0 ∨ 0x1C ≤ off) (s : State) : registerWord off s = 0 := by
  unfold registerWord
  rw [if_neg (by omega), if_neg (by omega), if_neg (by omega), if_neg (by omega), if_neg (by omega), if_neg (by omega),
    if_neg (by omega)]

/-- At another width than 32, or at an unassigned or misaligned offset, a read of REG returns 0 (R61). -/
theorem readWord_reg_ignored {off width : Nat} (h : width ≠ 32 ∨ off % 4 ≠ 0 ∨ 0x1C ≤ off) (s : State) :
    readWord .reg off width s = 0 := by
  by_cases hw : width = 32
  · exact (if_pos hw).trans (registerWord_unassigned (h.resolve_left (not_not_intro hw)) s)
  · exact if_neg hw

/-- Settles O35: an ignored read reaches nothing that is unspecified while BUSY, so in every STATE it returns the word of its
space, which is 0 (that it does so while BUSY too is log 16). -/
theorem ignoredReadReturnsZero : Obligations.IgnoredReadReturnsZero := by
  unfold Obligations.IgnoredReadReturnsZero
  intro s rest sp off width h hi
  have hg : readsGuarded sp off width s = false := by
    rw [Bool.eq_false_iff, Ne, readsGuarded_iff]
    rcases hi with ⟨rfl, hi⟩ | ⟨rfl, hi⟩ | ⟨rfl, hi⟩ | ⟨rfl, hi⟩ | ⟨rfl, hi⟩ <;>
      simp only [reduceCtorEq, true_and, false_and, false_or, or_true, or_false] <;> omega
  have hw : readWord sp off width s = 0 := by
    by_cases hsp : sp = .reg
    · subst hsp
      exact readWord_reg_ignored (by simpa using hi) s
    · exact readWord_unguarded hsp hg
  exact hw ▸ step_read_unguarded h (.inr hg)

/-- While BUSY a read of an unspecified value draws the next free value (R67; log 8). -/
theorem step_read_guarded {s : State} {rest : List Input} {sp : Space} {off width : Nat}
    (h : s.inputs = .host (.read sp off width) :: rest ∨ s.inputs = .hostOverlapped (.read sp off width) :: rest)
    (hb : s.stState = .busy) (hg : readsGuarded sp off width s = true) :
    step s = .next { s with inputs := rest, readData := busyReadWord sp s.draws, draws := s.draws + 1 } :=
  (step_read h).trans (congrArg _ (if_pos ⟨hb, hg⟩))

/-- The low byte of a word, zero-extended, as a number. -/
theorem setWidth_lowByte_eq_ofNat (x : Word) : (x.extractLsb' 0 8).setWidth 32 = BitVec.ofNat 32 (x.toNat % 256) := by
  rw [extractLsb'_zero_eq_ofNat]
  apply eq_ofNat_of_toNat
  simp only [BitVec.toNat_setWidth, BitVec.toNat_ofNat]
  omega

/-- Settles O39: LEN and RES entries return the drawn word, the three buffers its low byte. -/
theorem busyReadsAreFreeValues : Obligations.BusyReadsAreFreeValues := by
  unfold Obligations.BusyReadsAreFreeValues
  intro s rest sp off width h hb
  have hstep : ∀ {w : Word}, readsGuarded sp off width s = true → busyReadWord sp s.draws = w →
      step s = .next { s with inputs := rest, readData := w, draws := s.draws + 1 } :=
    fun hg hw => hw ▸ step_read_guarded h hb hg
  constructor <;> intro hr
  · refine hstep (readsGuarded_iff.2 (.inl hr)) ?_
    rcases hr with ⟨rfl, -⟩ | ⟨rfl, -⟩ <;> rfl
  · refine hstep (readsGuarded_iff.2 (.inr hr)) ?_
    rw [← setWidth_lowByte_eq_ofNat]
    rcases hr with ⟨rfl, -⟩ | ⟨rfl | rfl, -⟩ <;> rfl

/-- Settles O38: what a host read can do, with its input taken. -/
theorem readHasNoSideEffect : Obligations.ReadHasNoSideEffect := by
  unfold Obligations.ReadHasNoSideEffect
  intro s rest sp off width h
  obtain ⟨w, d, e, hd⟩ := hostRead_eq sp off width { s with inputs := rest }
  exact ⟨_, (step_read h).trans (congrArg _ e), rfl, hd⟩

/-! ### No step stops -/

/-- A step of the sequencer answers a next state; a wire byte is run only at a slot of its own (R102, R103). -/
theorem step_turn_continues {s : State} {rest : List Input} (h : SequencerTurn s rest) : Continues (step s) := by
  rcases step_sequencer h with ⟨job, i, k, -, e⟩ | ⟨job, i, -, e⟩ | ⟨-, e⟩ <;> exact ⟨_, e⟩

/-- A host write answers a next state: accepted, ignored, or a write to OP whose error is a value of STATUS (R74, R221). -/
theorem step_write_continues {s : State} {rest : List Input} {sp : Space} {off width : Nat} {data : Word}
    (h : s.inputs = .host (.write sp off width data) :: rest ∨ s.inputs = .hostOverlapped (.write sp off width data) :: rest) :
    Continues (step s) := by
  rcases step_write h with ⟨-, -, -, e⟩ | ⟨-, ⟨-, e⟩ | ⟨-, ⟨-, -, -, body, -, e⟩ | ⟨n, e⟩ | ⟨m, e⟩ | ⟨c, e⟩ |
    ⟨-, -, -, e⟩ | ⟨-, -, -, e⟩ | e⟩⟩ <;> exact ⟨_, e⟩

/-- Settles O56, by the inputs a step can take. -/
theorem stepNeverStops : Obligations.StepNeverStops := by
  unfold Obligations.StepNeverStops
  intro s
  rcases step_cases s with ⟨rest, hturn⟩ | ⟨rest, sp, off, width, data, hin⟩ | ⟨rest, sp, off, width, hin⟩ |
    ⟨rest, call, a, -, e⟩ | ⟨rest, -, e⟩
  · exact step_turn_continues hturn
  · exact step_write_continues hin
  · exact ⟨_, step_read hin⟩
  · exact ⟨_, e⟩
  · exact ⟨_, e⟩

end Sys2Proof.Machine
end

section
/-! The encodings (spec/30_encoding.md sections 1 to 4): the opcode table, the frames byte by byte, and reading a frame back from
a byte stream. -/

namespace Sys2Proof.Machine

/-! ### The opcode table -/

/-- Settles O1: each word is looked up in the table. -/
theorem tableWordsDecode : Obligations.TableWordsDecode := by
  unfold Obligations.TableWordsDecode
  decide

/-- The round trip of an instruction's byte, for every row of the table. -/
theorem roundTrip_statement (i : Instr) : Laws.RoundTrip.Statement i := by
  cases i
  case encLearn => exact Laws.RoundTrip.encLearn
  case encClassify => exact Laws.RoundTrip.encClassify
  case encClassifyMulti => exact Laws.RoundTrip.encClassifyMulti
  case decClassify => exact Laws.RoundTrip.decClassify
  case decClassifyMulti => exact Laws.RoundTrip.decClassifyMulti
  case txnLearn => exact Laws.RoundTrip.txnLearn
  case txnClassify => exact Laws.RoundTrip.txnClassify
  case txnClassifyMulti => exact Laws.RoundTrip.txnClassifyMulti
  case learnCommand => exact Laws.RoundTrip.learnCommand
  case classifyCommand => exact Laws.RoundTrip.classifyCommand
  case readDistance => exact Laws.RoundTrip.readDistance
  case readCategory => exact Laws.RoundTrip.readCategory
  case dummy => exact Laws.RoundTrip.dummy

/-- Every row of the table holds the format and the byte of its instruction, under the mask of all bits (R91, R110). -/
theorem opcodeTable_row : ∀ r ∈ opcodeTable, r.format = r.instr.format ∧ r.mask = 0xFF ∧ r.pattern = encodeByte r.instr := by
  decide

/-- A byte decodes in a format only to an instruction of that format with that byte (R90). -/
theorem decodeByte_ok {f : Format} {b : Byte} {i : Instr} (h : decodeByte f b = .ok i) : encodeByte i = b ∧ i.format = f := by
  unfold decodeByte at h
  split at h
  next r hr =>
    cases h
    obtain ⟨hformat, hmask, hpattern⟩ := opcodeTable_row r (List.mem_of_find?_eq_some hr)
    have hcovers := List.find?_some hr
    have hand : b &&& 0xFF = b := BitVec.and_allOnes
    simp only [TableRow.covers, hmask, hand, Bool.and_eq_true, beq_iff_eq] at hcovers
    exact ⟨(hcovers.2.trans hpattern).symm, hformat.symm.trans hcovers.1⟩
  next => cases h

/-- Settles O2: the rows one way, and what a table lookup can find the other way. -/
theorem instructionRoundTrip : Obligations.InstructionRoundTrip := by
  unfold Obligations.InstructionRoundTrip
  refine ⟨?_, fun f b i h => decodeByte_ok h⟩
  rintro f i rest rfl
  obtain ⟨hdecode, -, hword, -⟩ := roundTrip_statement i
  refine ⟨?_, hword⟩
  simp only [encode, List.singleton_append, decode, hdecode]

/-! ### Fields -/

/-- be16 and unbe16 are inverse (R13). -/
theorem unbe16_bytes (x : Half) : unbe16 (x.extractLsb' 8 8) (x.extractLsb' 0 8) = x := by
  apply BitVec.eq_of_toNat_eq
  have := x.isLt
  rw [unbe16, toNat_append_add]
  simp only [BitVec.extractLsb'_toNat, Nat.shiftRight_eq_div_pow]
  omega

/-- The length field gives N back (R92, R107). -/
theorem lengthField_toNat {n : Nat} (h₁ : 1 ≤ n) (h₂ : n ≤ 64) : (lengthField n).toNat + 1 = n := by
  rw [lengthField, BitVec.toNat_ofNat]
  omega

/-- The high byte of the length field is 0, since N ≤ 64 (R92). -/
theorem lengthField_high {n : Nat} (h : n ≤ 64) : (lengthField n).extractLsb' 8 8 = 0x00 := by
  apply BitVec.eq_of_toNat_eq
  simp only [lengthField, BitVec.extractLsb'_toNat, BitVec.toNat_ofNat, BitVec.ofNat_eq_ofNat, Nat.shiftRight_eq_div_pow]
  omega

/-- The low byte of the length field is N - 1 (R92). -/
theorem lengthField_low (n : Nat) : (lengthField n).extractLsb' 0 8 = BitVec.ofNat 8 (n - 1) := by
  apply BitVec.eq_of_toNat_eq
  simp only [lengthField, BitVec.extractLsb'_toNat, BitVec.toNat_ofNat, Nat.shiftRight_eq_div_pow]
  omega

/-- A category byte of a frame read back, and written again, is the same byte (R93, R106). -/
theorem categoryByte_setWidth (c : Byte) : categoryByte (c.setWidth 16) = c := by
  apply BitVec.eq_of_toNat_eq
  have := c.isLt
  simp only [categoryByte, BitVec.extractLsb'_toNat, BitVec.toNat_setWidth, Nat.shiftRight_eq_div_pow]
  omega

/-! ### A frame as its head, its vector and its tail -/

/-- The command and the length field, the three bytes both frames begin with (R93, R94). -/
def frameStart (kind : FrameKind) (n : Nat) : List Byte := commandByte kind :: be16 (lengthField n)

theorem learnFrame_eq (v : List Byte) (c : Half) : learnFrame v c = frameStart .learn v.length ++ (v ++ [categoryByte c]) := by
  simp [learnFrame, frameStart]

theorem classifyFrame_eq (v : List Byte) : classifyFrame v = frameStart .classify v.length ++ (v ++ selectorTail) := by
  simp [classifyFrame, frameStart]

/-- The first three bytes tell the kind and N of a frame (R107). -/
theorem frameHead_frameStart (kind : FrameKind) {n : Nat} (h₁ : 1 ≤ n) (h₂ : n ≤ 64) (rest : List Byte) :
    frameHead (frameStart kind n ++ rest) = some (kind, n) := by
  have hn : ¬ 64 < n := by omega
  cases kind <;> simp [frameHead, frameStart, be16, unbe16_bytes, lengthField_toNat h₁ h₂, nMax, hn, commandByte]

/-- The byte at each slot: three of the head, the vector from slot 3 on, then the tail (R93, R94). -/
theorem getElem?_frame (kind : FrameKind) (v tail : List Byte) (k : Nat) :
    (frameStart kind v.length ++ (v ++ tail))[k]? =
      if k = 0 then some (commandByte kind)
      else if k = 1 then some ((lengthField v.length).extractLsb' 8 8)
      else if k = 2 then some ((lengthField v.length).extractLsb' 0 8)
      else if k ≤ v.length + 2 then v[k - 3]?
      else tail[k - (v.length + 3)]? := by
  match k with
  | 0 => rfl
  | 1 => rfl
  | 2 => rfl
  | j + 3 =>
    have hdrop : (frameStart kind v.length ++ (v ++ tail))[j + 3]? = (v ++ tail)[j]? := rfl
    rw [hdrop, if_neg (by omega), if_neg (by omega), if_neg (by omega), List.getElem?_append]
    by_cases hj : j < v.length
    · rw [if_pos hj, if_pos (by omega)]; rfl
    · rw [if_neg hj, if_neg (by omega)]; congr 1; omega

/-- Settles O6, by the head, the vector and the eight bytes of the tail. -/
theorem classifyFrameLayout : Obligations.ClassifyFrameLayout := by
  unfold Obligations.ClassifyFrameLayout
  intro v _ h₂
  have htail : ∀ p, (classifyFrame v)[v.length + 3 + p]? = selectorTail[p]? := by
    intro p
    rw [classifyFrame_eq, getElem?_frame, if_neg (by omega), if_neg (by omega), if_neg (by omega), if_neg (by omega)]
    congr 1; omega
  refine ⟨classifyFrame_length v, rfl, congrArg some (lengthField_high h₂), congrArg some (lengthField_low _), ?_, htail 0, ?_,
    htail 4, ?_⟩
  · intro j hj
    rw [classifyFrame_eq, getElem?_frame, if_neg (by omega), if_neg (by omega), if_neg (by omega), if_pos (by omega)]
    congr 1; omega
  · intro p hp
    rw [show v.length + 4 + p = v.length + 3 + (1 + p) by omega, htail]
    interval_cases p <;> rfl
  · intro p hp
    rw [show v.length + 8 + p = v.length + 3 + (5 + p) by omega, htail]
    interval_cases p <;> rfl

/-! ### frame_byte -/

/-- The last eight slots of a CLASSIFY frame, by their place in the tail (R94, R101). -/
theorem frameByte_classify_tail (n p : Nat) (c : Half) (f : Nat → Byte) :
    frameByte .classify n c f (n + 3 + p) = selectorTail[p]? := by
  by_cases hp : p < 8
  · interval_cases p <;> simp [frameByte, phaseOf, phaseByte, selectorTail, Nat.add_assoc]
  · rw [List.getElem?_eq_none (by simpa using hp), ← Option.not_isSome_iff_eq_none, frameByte_isSome, strideOf]
    omega

/-- The last slot of a LEARN frame (R93, R101). -/
theorem frameByte_learn_tail (n p : Nat) (c : Half) (f : Nat → Byte) :
    frameByte .learn n c f (n + 3 + p) = [categoryByte c][p]? := by
  cases p with
  | zero => simp [frameByte, phaseOf, phaseByte]
  | succ p =>
    rw [List.getElem?_eq_none (by simp), ← Option.not_isSome_iff_eq_none, frameByte_isSome, strideOf]
    omega

/-- The slots before the tail, which both frames have (R100, R101). -/
theorem frameByte_before_tail (kind : FrameKind) {v tail : List Byte} {k : Nat} (hk : k < v.length + 3) (c : Half)
    {f : Nat → Byte} (hf : ∀ j, j < v.length → some (f j) = v[j]?) :
    frameByte kind v.length c f k = (frameStart kind v.length ++ (v ++ tail))[k]? := by
  have hv : k ≤ v.length + 2 := by omega
  simp only [getElem?_frame, frameByte, phaseOf, if_pos hv]
  split_ifs with h₀ h₁ h₂
  · rfl
  · rfl
  · rfl
  · exact hf (k - 3) (by omega)

/-- A frame read slot by slot, from its slots before the tail and its tail. -/
theorem frameByte_frame (kind : FrameKind) {v tail : List Byte} (c : Half) {f : Nat → Byte}
    (hf : ∀ j, j < v.length → some (f j) = v[j]?)
    (htail : ∀ p, frameByte kind v.length c f (v.length + 3 + p) = tail[p]?) (k : Nat) :
    frameByte kind v.length c f k = (frameStart kind v.length ++ (v ++ tail))[k]? := by
  by_cases hk : k < v.length + 3
  · exact frameByte_before_tail kind hk c hf
  · obtain ⟨p, rfl⟩ := Nat.exists_eq_add_of_le (Nat.not_lt.1 hk)
    rw [htail, getElem?_frame, if_neg (by omega), if_neg (by omega), if_neg (by omega), if_neg (by omega)]
    congr 1; omega

/-- frame_byte gives the LEARN frame of the vector it reads (R100, R150). -/
theorem frameByte_learn {v : List Byte} (c : Half) {f : Nat → Byte} (hf : ∀ j, j < v.length → some (f j) = v[j]?) (k : Nat) :
    frameByte .learn v.length c f k = (learnFrame v c)[k]? := by
  rw [learnFrame_eq]
  exact frameByte_frame .learn c hf (fun p => frameByte_learn_tail v.length p c f) k

/-- frame_byte gives the CLASSIFY frame of the vector it reads, whatever the category (R100, R153). -/
theorem frameByte_classify {v : List Byte} (c : Half) {f : Nat → Byte} (hf : ∀ j, j < v.length → some (f j) = v[j]?) (k : Nat) :
    frameByte .classify v.length c f k = (classifyFrame v)[k]? := by
  rw [classifyFrame_eq]
  exact frameByte_frame .classify c hf (fun p => frameByte_classify_tail v.length p c f) k

/-- Reading a list with a default agrees with the list inside it. -/
theorem some_getD {v : List Byte} {j : Nat} (hj : j < v.length) : some (v.getD j 0) = v[j]? := by
  simp [hj]

/-- Settles O7. -/
theorem frameByteGivesTheFrames : Obligations.FrameByteGivesTheFrames := by
  unfold Obligations.FrameByteGivesTheFrames
  intro v c k _ _
  exact ⟨frameByte_learn c (fun _ => some_getD) k, frameByte_classify c (fun _ => some_getD) k⟩

/-! ### Batch frames -/

/-- The frames of vectors of one length have one length, the stride (R97). -/
theorem classifyFrames_stride {n : Nat} {vs : List (List Byte)} (h : ∀ v ∈ vs, v.length = n) :
    ∀ x ∈ vs.map classifyFrame, x.length = n + 11 := by
  simpa using h

theorem multiFrame_length {n : Nat} {vs : List (List Byte)} (h : ∀ v ∈ vs, v.length = n) :
    (multiFrame vs).length = vs.length * (n + 11) := by
  rw [multiFrame, flatten_stride_length (classifyFrames_stride h), List.length_map]

/-- Byte i·S + k of a batch frame is byte k of the frame of vector i (R97, R170). -/
theorem getElem?_multiFrame {n : Nat} {vs : List (List Byte)} (h : ∀ v ∈ vs, v.length = n) {i k : Nat} {v : List Byte}
    (hv : vs[i]? = some v) (hk : k < n + 11) : (multiFrame vs)[i * (n + 11) + k]? = (classifyFrame v)[k]? := by
  rw [multiFrame, getElem?_flatten_stride (classifyFrames_stride h) i k hk, List.getElem?_map, hv]
  rfl

/-- Settles O8. -/
theorem multiFrameSlots : Obligations.MultiFrameSlots := by
  unfold Obligations.MultiFrameSlots
  intro n vs c _ _ h
  refine ⟨rfl, multiFrame_length h, fun i k v hv hk => ?_⟩
  have hslot := getElem?_multiFrame h hv hk
  obtain rfl : v.length = n := h v (List.mem_of_getElem? hv)
  exact ⟨hslot, hslot.trans (frameByte_classify c (fun _ => some_getD) k).symm⟩

/-! ### Reading frames back -/

/-- Reading a LEARN frame off a stream (R93, R107). -/
theorem decodeFrame_learnFrame {v : List Byte} (h₁ : 1 ≤ v.length) (h₂ : v.length ≤ 64) (c : Half) (rest : List Byte) :
    decodeFrame (learnFrame v c ++ rest) = some (.learn v (categoryByte c), rest) := by
  have hbody : (frameStart .learn v.length ++ (v ++ [categoryByte c] ++ rest)).drop 3 = v ++ ([categoryByte c] ++ rest) :=
    List.append_assoc v _ _
  rw [learnFrame_eq, List.append_assoc]
  simp only [decodeFrame, frameHead_frameStart .learn h₁ h₂, hbody, List.drop_left, List.take_left, List.singleton_append]

/-- Reading a CLASSIFY frame off a stream: the eight bytes after the vector are the selectors with their padding (R94, R107). -/
theorem decodeFrame_classifyFrame {v : List Byte} (h₁ : 1 ≤ v.length) (h₂ : v.length ≤ 64) (rest : List Byte) :
    decodeFrame (classifyFrame v ++ rest) = some (.classify v, rest) := by
  have hbody : (frameStart .classify v.length ++ (v ++ selectorTail ++ rest)).drop 3 = v ++ (selectorTail ++ rest) :=
    List.append_assoc v _ _
  have htake : (selectorTail ++ rest).take 8 = selectorTail := rfl
  have hdrop : (selectorTail ++ rest).drop 8 = rest := rfl
  rw [classifyFrame_eq, List.append_assoc]
  simp only [decodeFrame, frameHead_frameStart .classify h₁ h₂, hbody, List.drop_left, List.take_left, htake, hdrop, if_true]

/-- Settles O3, by the two kinds of frame. -/
theorem frameRoundTrip : Obligations.FrameRoundTrip := by
  unfold Obligations.FrameRoundTrip
  intro f rest ⟨h₁, h₂⟩
  cases f with
  | learn v c => exact (decodeFrame_learnFrame h₁ h₂ _ rest).trans (by rw [categoryByte_setWidth]; rfl)
  | classify v => exact decodeFrame_classifyFrame h₁ h₂ rest

theorem multiFrame_cons (v : List Byte) (vs : List (List Byte)) : multiFrame (v :: vs) = classifyFrame v ++ multiFrame vs := rfl

/-- A batch frame reads back as the vectors it was made of, one frame after the other (R97, R107). -/
theorem decodeFrames_multiFrame {vs : List (List Byte)} (h : ∀ v ∈ vs, 1 ≤ v.length ∧ v.length ≤ 64) :
    decodeFrames vs.length (multiFrame vs) = some (vs.map .classify) := by
  induction vs with
  | nil => rfl
  | cons v vs ih =>
    obtain ⟨⟨h₁, h₂⟩, hvs⟩ := List.forall_mem_cons.1 h
    rw [multiFrame_cons, List.length_cons, decodeFrames, decodeFrame_classifyFrame h₁ h₂]
    simp only [ih hvs, Option.map_some, List.map_cons]

/-- The first frame of a batch tells S, and M = L / S (R98). -/
theorem batchSize_multiFrame {n : Nat} {vs : List (List Byte)} (h₁ : 1 ≤ n) (h₂ : n ≤ 64) (h : ∀ v ∈ vs, v.length = n)
    (hne : vs ≠ []) : batchSize (multiFrame vs) = some vs.length := by
  have hhead : frameHead (multiFrame vs) = some (.classify, n) := by
    obtain ⟨v, vs, rfl⟩ := List.exists_cons_of_ne_nil hne
    obtain rfl : v.length = n := h v (by simp)
    rw [multiFrame_cons, classifyFrame_eq, List.append_assoc]
    exact frameHead_frameStart .classify h₁ h₂ _
  simp only [batchSize, hhead, multiFrame_length h, strideOf, Nat.mul_mod_left, if_true]
  rw [Nat.mul_div_cancel _ (by omega)]

/-- Settles O4. -/
theorem batchRoundTrip : Obligations.BatchRoundTrip := by
  unfold Obligations.BatchRoundTrip
  intro n vs h₁ h₂ h
  exact ⟨decodeFrames_multiFrame fun v hv => by rw [h v hv]; exact ⟨h₁, h₂⟩, batchSize_multiFrame h₁ h₂ h⟩

end Sys2Proof.Machine
end

section
/-! One step of the sequencer (R102, R103): the wire bytes at their slots, the encode step at every slot, the decode step at every
entry, and that what is already encoded or decoded stays right. -/

namespace Sys2Proof.Machine

/-! ### Wire bytes -/

/-- A wire byte is the emission of its own constant (R91). -/
theorem exec_wireByte {wire : Instr} (h : wire.format = .wireByte) (s : State) :
    exec wire s = emitConstant wire (encodeByte wire) s := by
  cases wire
  case learnCommand | classifyCommand | readDistance | readCategory | dummy => rfl
  all_goals cases h

/-- Settles O27: each major state in which the sequencer stands at no slot of the byte. -/
theorem wireByteElsewhereIsRefused : Obligations.WireByteElsewhereIsRefused := by
  unfold Obligations.WireByteElsewhereIsRefused
  intro s wire hf h
  rw [exec_wireByte hf]
  unfold emitConstant
  cases hm : s.major with
  | encode job i k => exact if_neg (h job i k hm)
  | notBusy => rfl
  | exchange job => rfl
  | decode job i => rfl

/-- Settles O12: at a slot of a wire constant the sequencer's step and the wire byte are both the encode step. -/
theorem stepRunsTheWireByteOfTheSlot : Obligations.StepRunsTheWireByteOfTheSlot := by
  unfold Obligations.StepRunsTheWireByteOfTheSlot
  intro s job i k wire hm hw
  have hstep : ∀ rest, SequencerTurn s rest → step s = exec wire { s with inputs := rest } := fun rest hturn =>
    (step_encode hturn hm).trans (exec_slotConstant (s := { s with inputs := rest }) hm hw).symm
  refine ⟨fun hin => ?_, fun rest hin => hstep rest (.inr hin)⟩
  rw [hstep [] (.inl ⟨hin, rfl⟩), ← hin]

/-- A wire byte at a slot of its own writes its byte there and advances (R102). -/
theorem exec_at_slot {s : State} {job : Job} {i k : Nat} {wire : Instr} (hf : wire.format = .wireByte)
    (hm : s.major = .encode job i k) (hw : slotConstant job.kind s.n.toNat k = some wire) :
    exec wire s = .next (emitByte (encodeByte wire) job i k s) := by
  simp only [exec_wireByte hf, emitConstant, hm]
  exact if_pos hw

/-! ### What an emitted byte changes -/

/-- Advancing leaves TXBUF (R102). -/
@[simp] theorem readTxbuf_advanceSlot (job : Job) (i k : Nat) (s : State) (p : Nat) :
    readTxbuf (advanceSlot job i k s) p = readTxbuf s p := by
  rcases advanceSlot_cases job i k s with ⟨-, e⟩ | ⟨-, -, e⟩ | ⟨-, -, -, e⟩ | ⟨-, -, -, e⟩ <;> rw [e] <;> rfl

theorem readTxbuf_emitByte_same (b : Byte) (job : Job) (i k : Nat) (s : State) :
    readTxbuf (emitByte b job i k s) (i * job.stride + k) = b := by
  rw [emitByte, readTxbuf_advanceSlot]
  simpa using readTxbuf_writeTxbuf_in (s := s) (bytes := [b]) (le_refl (i * job.stride + k)) (by simp)

theorem readTxbuf_emitByte_other (b : Byte) (job : Job) (i k : Nat) (s : State) {p : Nat} (h : p ≠ i * job.stride + k) :
    readTxbuf (emitByte b job i k s) p = readTxbuf s p := by
  rw [emitByte, readTxbuf_advanceSlot, readTxbuf_writeTxbuf_out]
  simp only [List.length_singleton]
  omega

/-- After a slot that is not the last of its sample: the next slot (R102). -/
theorem emitByte_next_slot (b : Byte) {job : Job} {i k : Nat} (s : State) (hk : k + 1 < job.stride) :
    emitByte b job i k s = { s with major := .encode job i (k + 1), txbuf := (emitByte b job i k s).txbuf } := by
  simp only [emitByte, advanceSlot, if_pos hk]
  rfl

/-- After the last slot of a sample that is not the last: the next sample (R102). -/
theorem emitByte_next_sample (b : Byte) {job : Job} {i k : Nat} (s : State) (hk : ¬ k + 1 < job.stride)
    (hi : i + 1 < job.samples) :
    emitByte b job i k s = { s with major := .encode job (i + 1) 0, txbuf := (emitByte b job i k s).txbuf } := by
  simp only [emitByte, advanceSlot, if_neg hk, if_pos hi]
  rfl

/-- After the last slot of a transaction's frame: the exchange, with its one call (R102, R190). -/
theorem emitByte_exchange (b : Byte) {job : Job} {i k : Nat} (s : State) (hk : ¬ k + 1 < job.stride)
    (hi : ¬ i + 1 < job.samples) (hx : job.code.getLsbD 3 = true) :
    emitByte b job i k s = { s with
      major := .exchange job, txbuf := (emitByte b job i k s).txbuf
      calls := s.calls ++ [{ length := job.length, tx := txBytes (emitByte b job i k s) job.length }] } := by
  have hx' : codeHasExchange job.code = true := hx
  simp only [emitByte, advanceSlot, if_neg hk, if_neg hi, finishEncode, if_pos hx']
  rfl

/-- After the last slot of any other frame: completion (R102, R138). -/
theorem emitByte_complete (b : Byte) {job : Job} {i k : Nat} (s : State) (hk : ¬ k + 1 < job.stride)
    (hi : ¬ i + 1 < job.samples) (hx : job.code.getLsbD 3 = false) :
    emitByte b job i k s = { s with
      major := .notBusy, txbuf := (emitByte b job i k s).txbuf
      len := BitVec.ofNat 32 job.length, stErr := .none, stState := .done } := by
  have hx' : ¬ codeHasExchange job.code = true := by rw [codeHasExchange, hx]; decide
  simp only [emitByte, advanceSlot, if_neg hk, if_neg hi, finishEncode, if_neg hx']
  rfl

/-! ### The wire bytes at their slots -/

theorem slotConstant_readDistance (n : Nat) : slotConstant .classify n (n + 3) = some .readDistance := by
  simp [slotConstant, phaseOf, phaseConstant]

theorem slotConstant_readCategory (n : Nat) : slotConstant .classify n (n + 7) = some .readCategory := by
  simp [slotConstant, phaseOf, phaseConstant]

/-- The six padding slots of a CLASSIFY frame (R94, R154). -/
theorem slotConstant_dummy {n k : Nat} (hk : n + 4 ≤ k ∧ k ≤ n + 6 ∨ n + 8 ≤ k ∧ k ≤ n + 10) :
    slotConstant .classify n k = some .dummy := by
  unfold slotConstant phaseOf
  rw [if_neg (by omega), if_neg (by omega), if_neg (by omega), if_neg (by omega)]
  dsimp only
  rw [if_neg (by omega)]
  rcases hk with hk | hk
  · rw [if_pos (by omega)]; rfl
  · rw [if_neg (by omega), if_neg (by omega), if_pos (by omega)]; rfl

/-- Settles O24: slot 0 is the command slot of both kinds, and never the last. -/
theorem commandBytesOpenTheFrame : Obligations.CommandBytesOpenTheFrame := by
  unfold Obligations.CommandBytesOpenTheFrame
  intro s job i hm hstride
  have hnext : 0 + 1 < job.stride := by rw [hstride]; cases job.kind <;> simp [strideOf]
  refine ⟨emitByte (commandByte job.kind) job i 0 s, fun hk => ?_, fun hk => ?_,
    fun p hp => readTxbuf_emitByte_other _ job i 0 s hp, emitByte_next_slot _ s hnext⟩
  · rw [hk]
    exact ⟨exec_at_slot rfl hm (by rw [hk]; rfl), readTxbuf_emitByte_same _ job i 0 s⟩
  · rw [hk]
    exact ⟨exec_at_slot rfl hm (by rw [hk]; rfl), readTxbuf_emitByte_same _ job i 0 s⟩

/-- A wire byte at a slot of its own that is not the last of its sample writes its byte there and moves on (R102). -/
theorem exec_at_inner_slot {s : State} {job : Job} {i k : Nat} {wire : Instr} (hf : wire.format = .wireByte)
    (hm : s.major = .encode job i k) (hw : slotConstant job.kind s.n.toNat k = some wire) (hk : k + 1 < job.stride) :
    ∃ t, exec wire s = .next t ∧ readTxbuf t (i * job.stride + k) = encodeByte wire ∧
      (∀ p, p ≠ i * job.stride + k → readTxbuf t p = readTxbuf s p) ∧
      t = { s with major := .encode job i (k + 1), txbuf := t.txbuf } :=
  ⟨_, exec_at_slot hf hm hw, readTxbuf_emitByte_same _ job i k s, fun _ h => readTxbuf_emitByte_other _ job i k s h,
    emitByte_next_slot _ s hk⟩

/-- Settles O25: slots N + 3 and N + 7 are inside the frame. -/
theorem selectorsFollowTheVector : Obligations.SelectorsFollowTheVector := by
  unfold Obligations.SelectorsFollowTheVector
  intro s job i hkind hstride
  constructor <;> intro hm
  · exact exec_at_inner_slot rfl hm (hkind ▸ slotConstant_readDistance _) (by omega)
  · exact exec_at_inner_slot rfl hm (hkind ▸ slotConstant_readCategory _) (by omega)

/-- Settles O26: the padding slots carry DUMMY, and slot N + 10 is the last of its sample. -/
theorem dummyFillsThePadding : Obligations.DummyFillsThePadding := by
  unfold Obligations.DummyFillsThePadding
  intro s job i k hm hkind hstride hk
  exact ⟨_, exec_at_slot rfl hm (hkind ▸ slotConstant_dummy hk), readTxbuf_emitByte_same _ job i k s,
    fun _ h => readTxbuf_emitByte_other _ job i k s h,
    fun _ => emitByte_next_slot _ s (by omega), fun _ => emitByte_next_sample _ s (by omega),
    fun _ => emitByte_exchange _ s (by omega), fun _ => emitByte_complete _ s (by omega)⟩

/-! ### The encode step and the decode step -/

/-- Settles O42: under the invariant the slot is one of the frame, so the step emits its byte. -/
theorem encodeStepWritesItsSlot : Obligations.EncodeStepWritesItsSlot := by
  unfold Obligations.EncodeStepWritesItsSlot
  intro s rest job i k h hturn hm
  obtain ⟨hr, -, -, hk⟩ := h.of_encode hm
  obtain ⟨hcode, hstride, -⟩ := job_of_issueCheck hr.check
  obtain ⟨b, hb⟩ := slotByte_some (s := { s with inputs := rest }) (kind := job.kind) (i := i) (hstride ▸ hk)
  exact ⟨_, (step_encode hturn hm).trans (congrArg _ (encodeStep_some hb)),
    (congrArg some (readTxbuf_emitByte_same b job i k _)).trans hb.symm,
    fun _ hp => readTxbuf_emitByte_other b job i k _ hp, emitByte_next_slot b _, emitByte_next_sample b _,
    fun hk hi hx => emitByte_exchange b _ hk hi (hcode ▸ hx), fun hk hi hx => emitByte_complete b _ hk hi (hcode ▸ hx)⟩

/-- The result of a sample is its four response bytes, at the stride of a CLASSIFY frame (R99, R103). -/
theorem sampleResult_eq {job : Job} {s : State} (hstride : job.stride = s.n.toNat + 11) (i : Nat) :
    sampleResult job s i =
      { distance := unbe16 (readRxbuf s (i * (s.n.toNat + 11) + s.n.toNat + 5))
                           (readRxbuf s (i * (s.n.toNat + 11) + s.n.toNat + 6))
        category := unbe16 (readRxbuf s (i * (s.n.toNat + 11) + s.n.toNat + 9))
                           (readRxbuf s (i * (s.n.toNat + 11) + s.n.toNat + 10)) } := by
  rw [sampleResult, hstride]; rfl

/-- A decode step writes RES as its one entry does, whether it goes on or completes (R103). -/
theorem readRes_decodeStep (job : Job) (i : Nat) (s : State) (j : Nat) :
    readRes (decodeStep job i s) j = readRes (writeRes i [sampleResult job s i] s) j := by
  unfold decodeStep
  dsimp only
  split <;> rfl

theorem readRes_decodeStep_same (job : Job) (i : Nat) (s : State) : readRes (decodeStep job i s) i = sampleResult job s i := by
  rw [readRes_decodeStep]
  simpa using readRes_writeRes_in (s := s) (entries := [sampleResult job s i]) (le_refl i) (by simp)

theorem readRes_decodeStep_other (job : Job) {i : Nat} (s : State) {j : Nat} (h : j ≠ i) :
    readRes (decodeStep job i s) j = readRes s j := by
  rw [readRes_decodeStep, readRes_writeRes_out]
  simp only [List.length_singleton]
  omega

/-- Settles O43: the entry is written, then the next sample or completion. -/
theorem decodeStepWritesItsEntry : Obligations.DecodeStepWritesItsEntry := by
  unfold Obligations.DecodeStepWritesItsEntry
  intro s rest job i h hturn hm
  obtain ⟨hr, hkind, -, -⟩ := h.of_decode hm
  obtain ⟨-, hstride, -⟩ := job_of_issueCheck hr.check
  rw [hkind] at hstride
  refine ⟨_, step_decode hturn hm,
    (readRes_decodeStep_same job i _).trans (sampleResult_eq (s := { s with inputs := rest }) hstride i),
    fun j hj => readRes_decodeStep_other job _ hj, fun hi => ?_, fun hi => ?_⟩
  · simp only [decodeStep, if_pos hi]; rfl
  · simp only [decodeStep, if_neg hi]; rfl

end Sys2Proof.Machine
end

section
/-! Operations as a whole: the byte-by-byte sequencer ends where the atomic operation does (R104, R142), and while an operation
runs, what is already encoded or decoded is right (R76). -/

namespace Sys2Proof.Machine

/-! ### The frame of a job -/

/-- The whole frame of an operation: learn_frame, or the CLASSIFY frames of its samples end to end (R150, R170, R176). -/
def jobFrame (job : Job) (s : State) : List Byte :=
  match job.kind with
  | .learn => learnFrame (sampleVector s 0) s.cat
  | .classify => multiFrame (sampleVectors s job.samples)

theorem jobFrame_learn {job : Job} (hk : job.kind = .learn) (s : State) :
    jobFrame job s = learnFrame (sampleVector s 0) s.cat := by simp only [jobFrame, hk]

theorem jobFrame_classify {job : Job} (hk : job.kind = .classify) (s : State) :
    jobFrame job s = multiFrame (sampleVectors s job.samples) := by simp only [jobFrame, hk]

theorem jobOf_samples_single {code : Byte} (h : codeIsMulti code = false) (s : State) : (jobOf code s).samples = 1 :=
  if_neg (Bool.eq_false_iff.1 h)

/-- An operation on LEARN frames has one sample (R110, R133). -/
theorem samples_of_learn {code : Byte} {s : State} {job : Job} (h : issueCheck code s = .ok job) (hk : job.kind = .learn) :
    job.samples = 1 := by
  obtain ⟨rfl, -⟩ := issueCheck_ok h
  have hfun : codeFunction code = 1 := by
    by_contra hne
    simp [jobOf, codeKind, hne] at hk
  exact jobOf_samples_single (by simp [codeIsMulti, hfun]) s

theorem sampleVectors_length (s : State) (count : Nat) : (sampleVectors s count).length = count := by simp [sampleVectors]

theorem length_of_mem_sampleVectors {s : State} {count : Nat} : ∀ v ∈ sampleVectors s count, v.length = s.n.toNat := by
  simp [sampleVectors, sampleVector_length]

theorem getElem?_sampleVectors {s : State} {count i : Nat} (hi : i < count) :
    (sampleVectors s count)[i]? = some (sampleVector s i) := by
  simp [sampleVectors, hi]

theorem getElem?_sampleVector {s : State} {i j : Nat} (hj : j < (sampleVector s i).length) :
    some (vectorElement s i j) = (sampleVector s i)[j]? := by
  rw [sampleVector_length] at hj
  simp [sampleVector, hj]

/-- The byte of slot k of a LEARN frame (R100, R150). -/
theorem slotByte_learn (s : State) (i k : Nat) : slotByte .learn s i k = (learnFrame (sampleVector s i) s.cat)[k]? := by
  rw [← frameByte_learn s.cat (fun _ => getElem?_sampleVector), sampleVector_length]
  rfl

/-- The byte of slot k of a CLASSIFY sample (R100, R153). -/
theorem slotByte_classify (s : State) (i k : Nat) : slotByte .classify s i k = (classifyFrame (sampleVector s i))[k]? := by
  rw [← frameByte_classify s.cat (fun _ => getElem?_sampleVector), sampleVector_length]
  rfl

theorem jobFrame_length {code : Byte} {s : State} {job : Job} (h : issueCheck code s = .ok job) :
    (jobFrame job s).length = job.length := by
  obtain ⟨-, hstride, hlen, -⟩ := job_of_issueCheck h
  rw [hlen, hstride]
  cases hk : job.kind with
  | learn => rw [jobFrame_learn hk, learnFrame_length, sampleVector_length, samples_of_learn h hk, Nat.one_mul]; rfl
  | classify => rw [jobFrame_classify hk, multiFrame_sampleVectors_length]; rfl

/-- Byte p of the frame is the byte of slot (p / S', p mod S') (R65, R100, R104). -/
theorem getElem?_jobFrame {code : Byte} {s : State} {job : Job} (h : issueCheck code s = .ok job) {p : Nat}
    (hp : p < job.length) : (jobFrame job s)[p]? = slotByte job.kind s (p / job.stride) (p % job.stride) := by
  obtain ⟨-, hstride, hlen, -⟩ := job_of_issueCheck h
  have hpos : 0 < job.stride := hstride ▸ strideOf_pos _ _
  cases hk : job.kind with
  | learn =>
    rw [samples_of_learn h hk, Nat.one_mul] at hlen
    rw [hlen] at hp
    rw [jobFrame_learn hk, Nat.div_eq_of_lt hp, Nat.mod_eq_of_lt hp, slotByte_learn]
  | classify =>
    have hS : job.stride = s.n.toNat + 11 := by rw [hstride, hk]; rfl
    have hi : p / job.stride < job.samples := (Nat.div_lt_iff_lt_mul hpos).2 (hlen ▸ hp)
    have hplace : p / job.stride * (s.n.toNat + 11) + p % job.stride = p := by rw [← hS, Nat.div_add_mod']
    rw [jobFrame_classify hk, slotByte_classify, ← getElem?_multiFrame length_of_mem_sampleVectors (getElem?_sampleVectors hi)
      ((Nat.mod_lt p hpos).trans_eq hS), hplace]

/-- A list of bytes is the frame if it gives every slot its byte. -/
theorem eq_jobFrame {code : Byte} {s : State} {job : Job} (h : issueCheck code s = .ok job) {bytes : List Byte}
    (hlen : bytes.length = job.length)
    (hslot : ∀ p, p < job.length → bytes[p]? = slotByte job.kind s (p / job.stride) (p % job.stride)) :
    bytes = jobFrame job s := by
  refine List.ext_getElem? fun p => ?_
  by_cases hp : p < job.length
  · rw [hslot p hp, getElem?_jobFrame h hp]
  · rw [List.getElem?_eq_none (by omega), List.getElem?_eq_none (by rw [jobFrame_length h]; omega)]

/-! ### The atomic operations as one form -/

/-- The batch frame of one sample is its CLASSIFY frame (R176). -/
theorem jobFrame_single {job : Job} (hk : job.kind = .classify) {s : State} (h : job.samples = 1) :
    jobFrame job s = classifyFrame (sampleVector s 0) := by
  rw [jobFrame_classify hk, h]
  exact List.append_nil _

theorem finishEncode_exchange {code : Byte} (hx : codeHasExchange code = true) (s t : State) :
    finishEncode (jobOf code s) t = enterExchange (jobOf code s) t := if_pos hx

theorem finishEncode_complete {code : Byte} (hx : codeHasExchange code = false) (s t : State) :
    finishEncode (jobOf code s) t = complete (jobOf code s) t := if_neg (Bool.eq_false_iff.1 hx)

/-- An operation that encodes writes the frame of its job at TXBUF offset 0 and goes on as ENCODE does (R104, R142). -/
theorem operationBody_encode {op : Instr} {s : State} (hf : op.format = .hostOp) (hd : codeIsDecode (encodeByte op) = false) :
    operationBody op (jobOf (encodeByte op) s) s =
      finishEncode (jobOf (encodeByte op) s) (writeTxbuf 0 (jobFrame (jobOf (encodeByte op) s) s) s) := by
  cases op
  case encLearn =>
    rw [jobFrame_learn rfl]; exact (finishEncode_complete (by decide) _ _).symm
  case encClassify =>
    rw [jobFrame_single rfl (jobOf_samples_single rfl s)]; exact (finishEncode_complete (by decide) _ _).symm
  case encClassifyMulti =>
    rw [jobFrame_classify rfl]; exact (finishEncode_complete (by decide) _ _).symm
  case txnLearn =>
    rw [jobFrame_learn rfl]; exact (finishEncode_exchange (by decide) _ _).symm
  case txnClassify =>
    rw [jobFrame_single rfl (jobOf_samples_single rfl s)]; exact (finishEncode_exchange (by decide) _ _).symm
  case txnClassifyMulti =>
    rw [jobFrame_classify rfl]; exact (finishEncode_exchange (by decide) _ _).symm
  case decClassify | decClassifyMulti => cases hd
  all_goals cases hf

/-- An operation that only decodes writes the results of its samples from RES entry 0 on and completes (R104, R142). -/
theorem operationBody_decode {op : Instr} {s : State} (hf : op.format = .hostOp) (hd : codeIsDecode (encodeByte op) = true) :
    operationBody op (jobOf (encodeByte op) s) s =
      complete (jobOf (encodeByte op) s)
        (writeRes 0 ((List.range (jobOf (encodeByte op) s).samples).map (sampleResult (jobOf (encodeByte op) s) s)) s) := by
  have hone : ∀ job, (List.range 1).map (sampleResult job s) = [decodeClassify (readRxbuf s) 0 s.n.toNat] := by
    simp [sampleResult]
  cases op
  case decClassify => rw [jobOf_samples_single rfl, hone]; rfl
  case decClassifyMulti => rfl
  case encLearn | encClassify | encClassifyMulti | txnLearn | txnClassify | txnClassifyMulti => cases hd
  all_goals cases hf

/-! ### The sequencer ends where the atomic operation does -/

/-- The sequencer alone, from slot (0, 0), writes the whole frame (R102, R104). -/
theorem run_encode_all {code : Byte} {s : State} {job : Job} (h : issueCheck code s = .ok job) (hin : s.inputs = []) :
    core.run job.length { s with major := .encode job 0 0 } = .next (finishEncode job (writeTxbuf 0 (jobFrame job s) s)) := by
  obtain ⟨-, hstride, hlen, hsamples, -⟩ := job_of_issueCheck h
  obtain ⟨bytes, hbytes, hslot, hrun⟩ := run_encode job job.length { s with major := .encode job 0 0 } 0 0 hin rfl hstride hlen
    hsamples (hstride ▸ strideOf_pos _ _) (by omega)
  obtain rfl : bytes = jobFrame job s := eq_jobFrame h hbytes fun p hp => by
    have h' := hslot p hp
    rw [Nat.zero_mul, Nat.zero_add] at h'
    exact h'
  rw [hrun, Nat.zero_mul, Nat.zero_add]
  exact congrArg _ (finishEncode_major job (writeTxbuf 0 (jobFrame job s) s) _)

/-- The sequencer alone, from entry 0, writes all results (R103, R104). -/
theorem run_decode_all {code : Byte} {s : State} {job : Job} (h : issueCheck code s = .ok job) (hin : s.inputs = []) :
    core.run job.samples { s with major := .decode job 0 } =
      .next (complete job (writeRes 0 ((List.range job.samples).map (sampleResult job s)) s)) := by
  obtain ⟨-, -, -, hsamples, -⟩ := job_of_issueCheck h
  rw [run_decode job job.samples { s with major := .decode job 0 } 0 hin rfl hsamples rfl]
  simp only [Nat.zero_add]
  rfl

/-- From the first major state to the end, under a passed check (R104, R142). -/
theorem run_enterFirstMajor {op : Instr} {s : State} (hf : op.format = .hostOp)
    (h : issueCheck (encodeByte op) s = .ok (jobOf (encodeByte op) s)) (hin : s.inputs = []) :
    core.run (stepsLeft (enterFirstMajor (jobOf (encodeByte op) s) s)) (enterFirstMajor (jobOf (encodeByte op) s) s) =
      .next (operationBody op (jobOf (encodeByte op) s) s) := by
  have hcode : (jobOf (encodeByte op) s).code = encodeByte op := rfl
  unfold enterFirstMajor
  rw [hcode]
  cases hd : codeIsDecode (encodeByte op) with
  | true =>
    rw [operationBody_decode hf hd]
    exact run_decode_all h hin
  | false =>
    rw [operationBody_encode hf hd, ← run_encode_all h hin]
    simp [stepsLeft]

/-- Settles O44, by the three ways a write to OP goes. -/
theorem stepwiseRunIsTheAtomicOperation : Obligations.StepwiseRunIsTheAtomicOperation := by
  unfold Obligations.StepwiseRunIsTheAtomicOperation
  intro s op hf hb hin
  rw [exec_hostOp hf, issue]
  cases hc : issueCheck (encodeByte op) s with
  | error e => rw [startOperation_error hb hc, startOperation_error hb hc]; rfl
  | ok job =>
    obtain rfl : job = jobOf (encodeByte op) s := (issueCheck_ok hc).1
    rw [startOperation_ok hb hc, startOperation_ok hb hc]
    exact run_enterFirstMajor (s := issued (encodeByte op) s) hf hc hin

/-! ### What is already encoded or decoded stays right -/

theorem progress_notBusy {s : State} (h : s.major = .notBusy) : s.Progress := by
  simp only [State.Progress, h]

/-- DECODE at entry 0 has written no entry yet. -/
theorem progress_decode_zero {s : State} {job : Job} (h : s.major = .decode job 0) : s.Progress := by
  simp [State.Progress, h]

/-- ENCODE at slot (0, 0) has written no slot yet. -/
theorem progress_encode_zero {s : State} {job : Job} (h : s.major = .encode job 0 0) : s.Progress := by
  simp [State.Progress, h]

theorem State.Progress.of_encode {s : State} {job : Job} {i k : Nat} (h : s.Progress) (hm : s.major = .encode job i k) :
    ∀ p, p < i * job.stride + k → some (readTxbuf s p) = slotByte job.kind s (p / job.stride) (p % job.stride) := by
  simpa only [State.Progress, hm] using h

theorem State.Progress.of_decode {s : State} {job : Job} {i : Nat} (h : s.Progress) (hm : s.major = .decode job i) :
    ∀ j, j < i → readRes s j = sampleResult job s j := by
  simpa only [State.Progress, hm] using h

/-- Advancing from slot (i, k) with every slot up to it written (R41, R102). -/
theorem progress_advanceSlot {s : State} {job : Job} {i k : Nat} (hlen : job.length = job.samples * job.stride)
    (hi : i < job.samples) (hk : k < job.stride)
    (h : ∀ p, p < i * job.stride + k + 1 → some (readTxbuf s p) = slotByte job.kind s (p / job.stride) (p % job.stride)) :
    (advanceSlot job i k s).Progress := by
  rcases advanceSlot_cases job i k s with ⟨-, e⟩ | ⟨hlast, -, e⟩ | ⟨hlast, hend, -, e⟩ | ⟨-, -, -, e⟩ <;> rw [e]
  · exact h
  · have hnext : (i + 1) * job.stride + 0 = i * job.stride + k + 1 := by rw [Nat.succ_mul]; omega
    intro p hp
    exact h p (hnext ▸ hp)
  · have hall : job.length = i * job.stride + k + 1 := by
      rw [hlen, show job.samples = i + 1 by omega, Nat.succ_mul]; omega
    intro p hp
    exact h p (hall ▸ hp)
  · exact progress_notBusy rfl

/-- The place of slot (i, k) gives back i and k (R65). -/
theorem slot_div_mod {i k S : Nat} (hk : k < S) : (i * S + k) / S = i ∧ (i * S + k) % S = k := by
  constructor
  · rw [Nat.mul_comm, Nat.mul_add_div (by omega), Nat.div_eq_of_lt hk, Nat.add_zero]
  · rw [Nat.mul_add_mod', Nat.mod_eq_of_lt hk]

theorem progress_encodeStep {s : State} {job : Job} {i k : Nat} (hinv : s.Inv) (h : s.Progress)
    (hm : s.major = .encode job i k) : (encodeStep job i k s).Progress := by
  obtain ⟨hr, -, hi, hk⟩ := hinv.of_encode hm
  obtain ⟨-, hstride, hlen, -⟩ := job_of_issueCheck hr.check
  obtain ⟨b, hb⟩ := slotByte_some (i := i) (hstride ▸ hk)
  rw [encodeStep_some hb]
  refine progress_advanceSlot hlen hi hk fun p hp => ?_
  by_cases hlast : p = i * job.stride + k
  · subst hlast
    rw [(slot_div_mod hk).1, (slot_div_mod hk).2, slotByte_writeTxbuf, hb]
    simpa using readTxbuf_writeTxbuf_in (s := s) (bytes := [b]) (le_refl (i * job.stride + k)) (by simp)
  · rw [readTxbuf_writeTxbuf_out (by simp; omega)]
    exact h.of_encode hm p (by omega)

theorem progress_decodeStep {s : State} {job : Job} {i : Nat} (h : s.Progress) (hm : s.major = .decode job i) :
    (decodeStep job i s).Progress := by
  by_cases hi : i + 1 < job.samples
  · have e : decodeStep job i s = { writeRes i [sampleResult job s i] s with major := .decode job (i + 1) } := if_pos hi
    have hall : ∀ j, j < i + 1 → readRes (decodeStep job i s) j = sampleResult job s j := by
      intro j hj
      by_cases hlast : j = i
      · subst hlast; exact readRes_decodeStep_same job j s
      · rw [readRes_decodeStep_other job s hlast]
        exact h.of_decode hm j (by omega)
    rw [e] at hall ⊢
    exact hall
  · have e : decodeStep job i s = complete job (writeRes i [sampleResult job s i] s) := if_neg hi
    rw [e]
    exact progress_notBusy rfl

/-- The frame of a job in TXBUF is what ENCODE ends with (R104, R194). -/
theorem progress_finishEncode {code : Byte} {s : State} {job : Job} (h : issueCheck code s = .ok job) :
    (finishEncode job (writeTxbuf 0 (jobFrame job s) s)).Progress := by
  unfold finishEncode
  split
  · intro p hp
    refine Eq.trans ?_ (getElem?_jobFrame h hp)
    simpa using readTxbuf_writeTxbuf_in (s := s) (bytes := jobFrame job s) (Nat.zero_le p)
      (by rw [jobFrame_length h]; omega)
  · exact progress_notBusy rfl

theorem progress_operationBody {op : Instr} {s : State} (hf : op.format = .hostOp)
    (h : issueCheck (encodeByte op) s = .ok (jobOf (encodeByte op) s)) :
    (operationBody op (jobOf (encodeByte op) s) s).Progress := by
  cases hd : codeIsDecode (encodeByte op) with
  | true => rw [operationBody_decode hf hd]; exact progress_notBusy rfl
  | false => rw [operationBody_encode hf hd]; exact progress_finishEncode h

theorem progress_enterFirstMajor (job : Job) (s : State) : (enterFirstMajor job s).Progress := by
  unfold enterFirstMajor
  split
  · exact progress_decode_zero rfl
  · exact progress_encode_zero rfl

/-- An accepted write to OP: an error, the first major state, or the whole frame handed over (R136, R137, R142). -/
theorem progress_startOperation {x : Word} {s₀ s : State} {body : Job → State → State} (hbody : IssueBody x s₀ body)
    (hb : s.stState ≠ .busy) : (startOperation (opCodeOf x) body s).Progress := by
  rcases startOperation_cases (opCodeOf x) body s with ⟨hb', -⟩ | ⟨-, er, -, e⟩ | ⟨-, job, hc, e⟩
  · exact absurd hb' hb
  · rw [e]; exact progress_notBusy rfl
  · rw [e]
    rcases hbody with rfl | ⟨op, -, hf, hcode, rfl, -⟩
    · exact progress_enterFirstMajor job _
    · obtain rfl : job = jobOf (opCodeOf x) s := (issueCheck_ok hc).1
      rw [← hcode] at hc ⊢
      exact progress_operationBody (s := issued (encodeByte op) s) hf hc

/-- While BUSY a host write touches OVR alone; while not BUSY the sequencer is at rest (R67, R131). -/
theorem step_write_progress {s t : State} {rest : List Input} {sp : Space} {off width : Nat} {data : Word} (hinv : s.Inv)
    (h : s.Progress)
    (hin : s.inputs = .host (.write sp off width data) :: rest ∨ s.inputs = .hostOverlapped (.write sp off width data) :: rest)
    (hs : step s = .next t) : t.Progress := by
  rcases step_write hin with ⟨-, -, -, e⟩ | ⟨-, ⟨-, e⟩ | ⟨hb, ⟨-, -, -, body, hbody, e⟩ | ⟨n, e⟩ | ⟨m, e⟩ | ⟨c, e⟩ |
    ⟨-, -, -, e⟩ | ⟨-, -, -, e⟩ | e⟩⟩ <;> rw [e] at hs <;> cases hs
  · rw [writeStatus_eq]; exact h
  · exact h
  · exact progress_startOperation hbody (s := { s with inputs := rest }) hb
  all_goals exact progress_notBusy (hinv.notBusy hb)

/-- The return of an exchange ends the operation or begins DECODE (R195, R201). -/
theorem progress_receiveAnswer {s : State} (h : s.Progress) (call : Nat) (a : Answer) :
    (receiveAnswer call a s).Progress := by
  rcases receiveAnswer_cases call a s with ⟨job, -, -, ⟨rx, -, e⟩ | ⟨-, e⟩⟩ | ⟨-, e⟩ <;> rw [e]
  · unfold receiveOk finishExchange
    split
    · exact progress_notBusy rfl
    · exact progress_decode_zero rfl
  · exact progress_notBusy rfl
  · exact h

/-- Settles O55, by the inputs a step can take. -/
theorem stepKeepsProgress : Obligations.StepKeepsProgress := by
  unfold Obligations.StepKeepsProgress
  intro s t hinv h hs
  have hinv' : ∀ rest, State.Inv { s with inputs := rest } := fun _ => { hinv with }
  have h' : ∀ rest, State.Progress { s with inputs := rest } := fun _ => h
  rcases step_cases s with ⟨rest, hturn⟩ | ⟨rest, sp, off, width, data, hin⟩ | ⟨rest, sp, off, width, hin⟩ |
    ⟨rest, call, a, -, e⟩ | ⟨rest, -, e⟩
  · rcases step_sequencer hturn with ⟨job, i, k, hm, e⟩ | ⟨job, i, hm, e⟩ | ⟨-, e⟩ <;> rw [e] at hs <;> cases hs
    · exact progress_encodeStep (hinv' rest) (h' rest) hm
    · exact progress_decodeStep (h' rest) hm
    · exact h
  · exact step_write_progress hinv h hin hs
  · obtain ⟨w, d, e, -⟩ := hostRead_eq sp off width { s with inputs := rest }
    rw [step_read hin, e] at hs; cases hs
    exact h
  · rw [e] at hs; cases hs
    exact progress_receiveAnswer (h' rest) call a
  · rw [e] at hs; cases hs
    exact progress_notBusy rfl

end Sys2Proof.Machine
end

section
/-! Op codes, operands and host programs: a reserved op code ends in BAD_OP (R112), the batch operations read N, M and their own
bytes alone (R99, R113), SETUP and LOADV store their operands (R115, R116). -/

namespace Sys2Proof.Machine

/-! ### Reserved op codes -/

/-- A reserved code is the byte of no operation (R110, R112). -/
theorem decodeByte_reserved {b : Byte} (h : b = 0x00 ∨ b = 0x06 ∨ b = 0x07 ∨ b = 0x08 ∨ 0x0C ≤ b.toNat) :
    ∃ e, decodeByte .hostOp b = .error e := by
  cases hd : decodeByte .hostOp b with
  | error e => exact ⟨e, rfl⟩
  | ok i =>
    obtain ⟨rfl, hf⟩ := decodeByte_ok hd
    cases i
    case learnCommand | classifyCommand | readDistance | readCategory | dummy => cases hf
    all_goals exact absurd h (by decide)

theorem issueCheck_badOp {b : Byte} {e : DecodeReject} (h : decodeByte .hostOp b = .error e) (s : State) :
    issueCheck b s = .error .badOp := by
  simp only [issueCheck, h]

/-- A write to OP while not BUSY starts an operation, however it is taken (R130). -/
theorem step_write_op {s : State} {rest : List Input} {x : Word}
    (h : s.inputs = .host (.write .reg 0x00 32 x) :: rest ∨ s.inputs = .hostOverlapped (.write .reg 0x00 32 x) :: rest)
    (hb : s.stState ≠ .busy) :
    ∃ body, step s = .next (startOperation (opCodeOf x) body { s with inputs := rest }) := by
  have hw : ∀ op, hostWrite op .reg 0x00 32 x { s with inputs := rest } = op x { s with inputs := rest } :=
    fun op => (if_neg (by decide)).trans (if_neg hb)
  rcases h with h | h
  · obtain ⟨body, -, e⟩ := writeOp_eq x { s with inputs := rest }
    exact ⟨body, (step_cons h).trans ((hw writeOp).trans e)⟩
  · exact ⟨enterFirstMajor, (step_cons h).trans (hw writeOpOverlapped)⟩

/-- A write to OP whose check fails ends at once in its error (R136, R221). -/
theorem step_failed_check {s : State} {rest : List Input} {x : Word} {e : ErrCode}
    (h : s.inputs = .host (.write .reg 0x00 32 x) :: rest ∨ s.inputs = .hostOverlapped (.write .reg 0x00 32 x) :: rest)
    (hb : s.stState ≠ .busy) (hc : issueCheck (opCodeOf x) s = .error e) :
    step s = .next { s with inputs := rest, opCode := opCodeOf x, stState := .error, stErr := e, major := .notBusy } := by
  obtain ⟨body, hstep⟩ := step_write_op h hb
  exact hstep.trans (congrArg _ (startOperation_error (s := { s with inputs := rest }) hb hc))

/-- Settles O29: the first check of a reserved code fails. -/
theorem reservedOpCodeEndsInBadOp : Obligations.ReservedOpCodeEndsInBadOp := by
  unfold Obligations.ReservedOpCodeEndsInBadOp
  intro s rest x h hb hx
  obtain ⟨e, he⟩ := decodeByte_reserved hx
  exact step_failed_check h hb (issueCheck_badOp he s)

/-! ### What the batch operations read -/

/-- The vectors of `count` samples lie in VBUF[0, count·N) (R34, R113). -/
theorem sampleVectors_congr {s t : State} {count : Nat} (hn : t.n = s.n)
    (h : ∀ off, off < count * s.n.toNat → readVbuf t off = readVbuf s off) : sampleVectors t count = sampleVectors s count := by
  refine List.map_congr_left fun i hi => ?_
  simp only [sampleVector, vectorLength, hn]
  refine List.map_congr_left fun j hj => ?_
  rw [List.mem_range] at hi hj
  have hoff : i * s.n.toNat + j < count * s.n.toNat :=
    calc i * s.n.toNat + j < (i + 1) * s.n.toNat := by rw [Nat.succ_mul]; omega
      _ ≤ count * s.n.toNat := Nat.mul_le_mul_right _ hi
  simp only [vectorElement, vectorLength, hn, h _ hoff]

/-- The results of a batch are made of the four response bytes of each sample (R99, R173). -/
theorem decodeMulti_congr {r r' : Nat → Byte} {m n : Nat}
    (h : ∀ i off, i < m → off = n + 5 ∨ off = n + 6 ∨ off = n + 9 ∨ off = n + 10 →
      r' (i * (n + 11) + off) = r (i * (n + 11) + off)) : decodeMulti r' m n = decodeMulti r m n := by
  refine List.map_congr_left fun i hi => ?_
  rw [List.mem_range] at hi
  simp only [decodeClassify, strideOf, Nat.add_assoc]
  rw [h i _ hi (by simp), h i _ hi (by simp), h i _ hi (by simp), h i _ hi (by simp)]

/-- A change of what a write to OP neither reads nor writes can be made before it or after it. -/
theorem startOperation_comm (f : State → State) {code : Byte} {body : Job → State → State} {s : State}
    (hstate : (f s).stState = s.stState) (hcheck : issueCheck code (f s) = issueCheck code s)
    (hbusy : overrun (f s) = f (overrun s))
    (herror : ∀ e, raiseError e (issued code (f s)) = f (raiseError e (issued code s)))
    (hbody : ∀ job, body job (issued code (f s)) = f (body job (issued code s))) :
    startOperation code body (f s) = f (startOperation code body s) := by
  rcases startOperation_cases code body s with ⟨hb, e⟩ | ⟨hb, er, hc, e⟩ | ⟨hb, job, hc, e⟩ <;> rw [e]
  · exact (startOperation_busy (hstate.trans hb)).trans hbusy
  · exact (startOperation_error (hstate ▸ hb) (hcheck.trans hc)).trans (herror er)
  · exact (startOperation_ok (hstate ▸ hb) (hcheck.trans hc)).trans (hbody job)

/-- Settles O23: the change commutes with the operation, since its frame or its results are the same. -/
theorem operationsReadOnlyTheirOperands : Obligations.OperationsReadOnlyTheirOperands := by
  unfold Obligations.OperationsReadOnlyTheirOperands
  constructor
  · intro s c v r e h
    have hframe : multiFrame (sampleVectors { s with cat := c, vbuf := v, rxbuf := r, res := e } s.m.toNat) =
        multiFrame (sampleVectors s s.m.toNat) := congrArg _ (sampleVectors_congr rfl h)
    refine ⟨_, rfl, congrArg _ (startOperation_comm (fun t => { t with cat := c, vbuf := v, rxbuf := r, res := e }) rfl
      (issueCheck_congr rfl rfl rfl) rfl (fun _ => rfl) fun job => ?_)⟩
    exact congrArg (fun bytes => complete job (writeTxbuf 0 bytes _)) hframe
  · intro s c v x r h
    have hresults : decodeMulti (readRxbuf { s with rxbuf := r }) s.m.toNat s.n.toNat =
        decodeMulti (readRxbuf s) s.m.toNat s.n.toNat := decodeMulti_congr h
    refine ⟨_, rfl, congrArg _ (startOperation_comm (fun t => { t with cat := c, vbuf := v, txbuf := x, rxbuf := r }) rfl
      (issueCheck_congr rfl rfl rfl) rfl (fun _ => rfl) fun job => ?_)⟩
    exact congrArg (fun entries => complete job (writeRes 0 entries _)) hresults

/-! ### Host programs -/

/-- A byte written through a 32-bit host word is the byte (R116; log 27). -/
theorem extractLsb'_setWidth_byte (b : Byte) : (b.setWidth 32).extractLsb' 0 8 = b := by
  apply BitVec.eq_of_toNat_eq
  have := b.isLt
  simp only [BitVec.extractLsb'_toNat, BitVec.toNat_setWidth, Nat.shiftRight_eq_div_pow]
  omega

/-- The accesses of SETUP: a write of N, of M and of CAT (R115, R116). -/
theorem programInputs_setup (n m c : Word) (prog : List Stmt) :
    programInputs ((Pseudo.setup n m c).expand ++ prog) =
      .host (.write .reg 0x08 32 n) :: .host (.write .reg 0x0C 32 m) :: .host (.write .reg 0x10 32 c) :: programInputs prog := rfl

/-- The accesses of LOADV: a byte write, then those of the rest at the next offset (R115, R116). -/
theorem programInputs_loadStmts_cons (sp : Space) (off : Nat) (b : Byte) (bs : List Byte) :
    programInputs (loadStmts sp off (b :: bs)) =
      .host (.write sp off 8 (b.setWidth 32)) :: programInputs (loadStmts sp (off + 1) bs) := rfl

/-- The three accesses of SETUP while not BUSY (R28 to R30, R115). -/
theorem run_setup {s : State} {rest : List Input} {n m c : Word} (hb : s.stState ≠ .busy)
    (hin : s.inputs = .host (.write .reg 0x08 32 n) :: .host (.write .reg 0x0C 32 m) :: .host (.write .reg 0x10 32 c) :: rest)
    (k : Nat) :
    core.run (k + 3) s = core.run k { s with
      inputs := rest, n := n.extractLsb' 0 8, m := m.extractLsb' 0 16, cat := c.extractLsb' 0 16 } := by
  obtain ⟨_, hn⟩ := step_write_idle (.inl hin) hb (by decide)
  rw [run_succ _ _ _ hn]
  obtain ⟨_, hm⟩ := step_write_idle (s := { s with
    inputs := .host (.write .reg 0x0C 32 m) :: .host (.write .reg 0x10 32 c) :: rest
    n := n.extractLsb' 0 8 }) (.inl rfl) hb (by decide)
  rw [run_succ _ _ _ hm]
  obtain ⟨_, hc⟩ := step_write_idle (s := { s with
    inputs := .host (.write .reg 0x10 32 c) :: rest
    n := n.extractLsb' 0 8, m := m.extractLsb' 0 16 }) (.inl rfl) hb (by decide)
  rw [run_succ _ _ _ hc]

/-- The accesses of LOADV while not BUSY, one byte at a time (R34, R115). -/
theorem run_loadv {s : State} {off : Nat} {bytes : List Byte} (hb : s.stState ≠ .busy) (hoff : off + bytes.length ≤ vbufSize s)
    (hin : s.inputs = programInputs (loadStmts .vbuf off bytes)) :
    core.run bytes.length s = .next { s with inputs := [], vbuf := writeCells s.vbuf off bytes } := by
  induction bytes generalizing s off with
  | nil =>
    have hnil : s.inputs = [] := hin
    rw [← hnil]; rfl
  | cons b bs ih =>
    rw [List.length_cons] at hoff
    have hstep := step_write_vbuf (.inl (hin.trans (programInputs_loadStmts_cons .vbuf off b bs))) hb (by omega)
    rw [extractLsb'_setWidth_byte] at hstep
    have hoff' : off + 1 + bs.length ≤ vbufSize s := by omega
    exact (run_succ _ _ _ hstep).trans (ih
      (s := writeVbuf off b { s with inputs := programInputs (loadStmts .vbuf (off + 1) bs) }) hb hoff' rfl)

theorem readVbuf_writeCells_in {s t : State} {off k : Nat} {bytes : List Byte} (ht : t.vbuf = writeCells s.vbuf off bytes)
    (hk : k < bytes.length) : some (readVbuf t (off + k)) = bytes[k]? := by
  simp [readVbuf, ht, lookupCell_writeCells, hk]

theorem readVbuf_writeCells_out {s t : State} {off p : Nat} {bytes : List Byte} (ht : t.vbuf = writeCells s.vbuf off bytes)
    (hepoch : t.epoch = s.epoch) (hp : p < off ∨ off + bytes.length ≤ p) : readVbuf t p = readVbuf s p := by
  rw [readVbuf, ht, lookupCell_writeCells, if_neg (by omega), hepoch]
  rfl

/-- Settles O41, by the accesses of SETUP and then those of LOADV. -/
theorem setupAndLoadvStoreTheirOperands : Obligations.SetupAndLoadvStoreTheirOperands := by
  unfold Obligations.SetupAndLoadvStoreTheirOperands
  intro s n m c bytes off hb hoff hin
  rw [programInputs_setup] at hin
  have hrun := (run_setup hb hin bytes.length).trans (run_loadv (off := off) hb hoff rfl)
  rw [Nat.add_comm] at hrun
  exact ⟨_, hrun, fun _ hj => readVbuf_writeCells_in rfl hj, fun _ hp => readVbuf_writeCells_out rfl rfl hp, rfl⟩

end Sys2Proof.Machine
end

section
/-! Issue, its checks, and the end of an operation (spec/40_issue.md): the first major state (R137), the checks that fail (R134 to
R136), that ENCODE and DECODE end (R141), what starts an operation (R130), and that its operands stay (R131). -/

namespace Sys2Proof.Machine

/-! ### The first major state -/

/-- A host write to OP while not BUSY is what `op` does with it (R130). -/
theorem hostWrite_op_idle (op : Word → State → Host.Outcome State Fault Refusal) (x : Word) {s : State}
    (hb : s.stState ≠ .busy) : hostWrite op .reg 0x00 32 x s = op x s :=
  (if_neg (by decide)).trans (if_neg hb)

/-- A write to OP that leaves its operation running is issue alone (R137). -/
theorem step_write_op_overlapped {s : State} {rest : List Input} {x : Word}
    (h : s.inputs = .hostOverlapped (.write .reg 0x00 32 x) :: rest) (hb : s.stState ≠ .busy) :
    step s = .next (startOperation (opCodeOf x) enterFirstMajor { s with inputs := rest }) :=
  (step_cons h).trans (hostWrite_op_idle writeOpOverlapped x (s := { s with inputs := rest }) hb)

/-- Among the assigned op codes only DEC_CLASSIFY and DEC_CLASSIFY_MULTI go to DECODE (R110, R111). -/
theorem codeIsDecode_encodeByte {op : Instr} (hf : op.format = .hostOp) :
    codeIsDecode (encodeByte op) = true ↔ encodeByte op = 0x04 ∨ encodeByte op = 0x05 := by
  cases op
  case learnCommand | classifyCommand | readDistance | readCategory | dummy => cases hf
  all_goals decide

theorem enterFirstMajor_eq {code : Byte} {s : State} {job : Job} (h : issueCheck code s = .ok job) (t : State) :
    enterFirstMajor job t =
      { t with major := if code = 0x04 ∨ code = 0x05 then .decode job 0 else .encode job 0 0 } := by
  obtain ⟨hcode, -⟩ := job_of_issueCheck h
  obtain ⟨-, ⟨op, hop⟩, -⟩ := issueCheck_ok h
  obtain ⟨hf, rfl⟩ := decodeByte_hostOp_eq hop
  by_cases hd : codeIsDecode (encodeByte op) = true
  · rw [enterFirstMajor, hcode, if_pos hd, if_pos ((codeIsDecode_encodeByte hf).1 hd)]
  · rw [enterFirstMajor, hcode, if_neg hd, if_neg (mt (codeIsDecode_encodeByte hf).2 hd)]

/-- Settles O13: the checks pass, so the write is issue followed by the entry of the first major state. -/
theorem overlappedIssueEntersFirstMajorState : Obligations.OverlappedIssueEntersFirstMajorState := by
  unfold Obligations.OverlappedIssueEntersFirstMajorState
  intro s rest x job h hb hc
  rw [step_write_op_overlapped h hb, startOperation_ok (s := { s with inputs := rest }) hb hc, enterFirstMajor_eq hc]
  rfl

/-! ### Checks that fail -/

/-- Settles O28: of the writes of an operation only those of issue and of raising the error are made. -/
theorem failedCheckWritesOnlyStatus : Obligations.FailedCheckWritesOnlyStatus := by
  unfold Obligations.FailedCheckWritesOnlyStatus
  intro s rest x e h hb hc
  exact step_failed_check h hb hc

/-- The check of N, the first for an assigned code (R134, R226). -/
theorem issueCheck_badN {code : Byte} {s : State} {i : Instr} (hi : decodeByte .hostOp code = .ok i)
    (hn : s.n.toNat < 1 ∨ 64 < s.n.toNat) : issueCheck code s = .error .badN := by
  simp only [issueCheck, hi]
  exact if_pos hn

/-- The check of M, for a MULTI code with a legal N (R135, R226). -/
theorem issueCheck_badM {code : Byte} {s : State} {i : Instr} (hi : decodeByte .hostOp code = .ok i)
    (h₁ : 1 ≤ s.n.toNat) (h₂ : s.n.toNat ≤ 64) (hmulti : codeIsMulti code = true)
    (hm : s.m = 0 ∨ s.mMax.toNat < s.m.toNat) : issueCheck code s = .error .badM := by
  have hn : ¬ (s.n.toNat < 1 ∨ s.n.toNat > 64) := by omega
  simp only [issueCheck, hi]
  exact (if_neg hn).trans (if_pos ⟨hmulti, hm.imp_left (congrArg BitVec.toNat)⟩)

/-- The check of a code that is not MULTI does not depend on M (R135). -/
theorem issueCheck_single {code : Byte} (h : codeIsMulti code = false) (s : State) (m : Half) :
    issueCheck code { s with m := m } = issueCheck code s := by
  simp only [issueCheck, jobOf, h]
  rfl

/-- An operation whose check fails ends in its error, with OP.CODE stored (R130, R136). -/
theorem exec_failed_check {op : Instr} {s : State} {e : ErrCode} (hf : op.format = .hostOp) (hb : s.stState ≠ .busy)
    (hc : issueCheck (encodeByte op) s = .error e) :
    exec op s = .next { s with opCode := encodeByte op, stState := .error, stErr := e, major := .notBusy } :=
  (exec_hostOp hf s).trans (congrArg _ (startOperation_error hb hc))

/-- Settles O30: N is checked before M, and for every assigned code. -/
theorem badVectorLengthIsRefusedByAll : Obligations.BadVectorLengthIsRefusedByAll := by
  unfold Obligations.BadVectorLengthIsRefusedByAll
  intro s op hf hb hn
  exact exec_failed_check hf hb (issueCheck_badN (decodeByte_encodeByte hf) hn)

/-- The MULTI operations among the host operations (R111, R133). -/
theorem codeIsMulti_hostOp {op : Instr} (hf : op.format = .hostOp) :
    codeIsMulti (encodeByte op) = true ↔ op = .encClassifyMulti ∨ op = .decClassifyMulti ∨ op = .txnClassifyMulti := by
  have hwire : op ≠ .readDistance := by rintro rfl; cases hf
  simp only [codeIsMulti_encodeByte, hwire, or_false]

/-- The body of an operation raises no error (R138, R190). -/
theorem operationBody_stErr (op : Instr) (job : Job) {s : State} (h : s.stErr = .none) :
    (operationBody op job s).stErr = .none := by
  cases op
  case encLearn | encClassify | encClassifyMulti | decClassify | decClassifyMulti => rfl
  all_goals exact h

/-- The body of an operation that is not MULTI neither reads nor writes M (R135). -/
theorem operationBody_single {op : Instr} (hf : op.format = .hostOp) (h : codeIsMulti (encodeByte op) = false) (job : Job)
    (s : State) (m : Half) : operationBody op job { s with m := m } = { operationBody op job s with m := m } := by
  cases op
  case encLearn | encClassify | decClassify | txnLearn | txnClassify => rfl
  case encClassifyMulti | decClassifyMulti | txnClassifyMulti => cases h
  all_goals cases hf

/-- Settles O31: a MULTI operation fails its check of M; for any other a change of M commutes with the operation. -/
theorem badSampleCountIsRefusedByMulti : Obligations.BadSampleCountIsRefusedByMulti := by
  unfold Obligations.BadSampleCountIsRefusedByMulti
  intro s op hf hb h₁ h₂ hm
  have hop := decodeByte_encodeByte hf
  constructor
  · intro hmulti
    exact exec_failed_check hf hb (issueCheck_badM hop h₁ h₂ ((codeIsMulti_hostOp hf).2 hmulti) hm)
  · intro hmulti m'
    have hsingle : codeIsMulti (encodeByte op) = false := Bool.eq_false_iff.2 (mt (codeIsMulti_hostOp hf).1 hmulti)
    have hpass := issueCheck_pass hop h₁ h₂ fun h => absurd h (Bool.eq_false_iff.1 hsingle)
    refine ⟨_, exec_hostOp hf s, ?_, ?_⟩
    · rw [startOperation_ok hb hpass]
      exact operationBody_stErr op _ rfl
    · rw [exec_hostOp hf]
      exact congrArg _ (startOperation_comm (fun t => { t with m := m' }) rfl (issueCheck_single hsingle s m') rfl
        (fun _ => rfl) fun job => operationBody_single hf hsingle job (issued (encodeByte op) s) m')

/-! ### ENCODE and DECODE end -/

theorem finishEncode_ends (job : Job) (s : State) :
    (finishEncode job s).major = .notBusy ∨ ∃ job', (finishEncode job s).major = .exchange job' := by
  unfold finishEncode
  split
  · exact .inr ⟨job, rfl⟩
  · exact .inl rfl

/-- The steps left bring ENCODE to completion or the exchange, and DECODE to completion (R102, R103, R141). -/
theorem run_stepsLeft {s : State} (h : s.Inv) (hin : s.inputs = []) :
    ∃ t, core.run (stepsLeft s) s = .next t ∧ (t.major = .notBusy ∨ ∃ job, t.major = .exchange job) := by
  cases hm : s.major with
  | notBusy =>
    have hleft : stepsLeft s = 0 := by simp only [stepsLeft, hm]
    rw [hleft]
    exact ⟨s, rfl, .inl hm⟩
  | exchange job =>
    have hleft : stepsLeft s = 0 := by simp only [stepsLeft, hm]
    rw [hleft]
    exact ⟨s, rfl, .inr ⟨job, hm⟩⟩
  | encode job i k =>
    obtain ⟨hr, -, hi, hk⟩ := h.of_encode hm
    obtain ⟨-, hstride, hlen, -⟩ := job_of_issueCheck hr.check
    have hslot := slot_lt hlen hi hk
    have hleft : stepsLeft s + (i * job.stride + k) = job.length := by simp only [stepsLeft, hm]; omega
    obtain ⟨bytes, -, -, hrun⟩ := run_encode job (stepsLeft s) s i k hin hm hstride hlen hi hk hleft
    exact ⟨_, hrun, finishEncode_ends job _⟩
  | decode job i =>
    obtain ⟨-, -, -, hi⟩ := h.of_decode hm
    have hleft : stepsLeft s + i = job.samples := by simp only [stepsLeft, hm]; omega
    exact ⟨_, run_decode job (stepsLeft s) s i hin hm hi hleft, .inl rfl⟩

theorem stepsLeft_encode_le {s : State} {job : Job} {i k : Nat} (hm : s.major = .encode job i k) :
    stepsLeft s ≤ job.length := by
  simp only [stepsLeft, hm]
  exact Nat.sub_le _ _

theorem stepsLeft_decode_le {s : State} {job : Job} {i : Nat} (hm : s.major = .decode job i) :
    stepsLeft s ≤ job.samples := by
  simp only [stepsLeft, hm]
  exact Nat.sub_le _ _

/-- Settles O45: the run of the steps left, and their bounds. -/
theorem encodeAndDecodeTerminate : Obligations.EncodeAndDecodeTerminate := by
  unfold Obligations.EncodeAndDecodeTerminate
  intro s h hin
  obtain ⟨t, hrun, hend⟩ := run_stepsLeft h hin
  exact ⟨t, hrun, hend, fun _ _ _ => stepsLeft_encode_le, fun _ _ => stepsLeft_decode_le⟩

/-! ### What starts an operation -/

/-- A write to OP takes the sequencer out of NOT_BUSY only if it is accepted and its checks pass (R130, R136, R137). -/
theorem startOperation_leaves_notBusy {code : Byte} {body : Job → State → State} {s : State} (hm : s.major = .notBusy)
    (h : (startOperation code body s).major ≠ .notBusy) :
    s.stState ≠ .busy ∧ ∃ job, issueCheck code s = .ok job := by
  rcases startOperation_cases code body s with ⟨-, e⟩ | ⟨-, er, -, e⟩ | ⟨hb, job, hc, -⟩
  · rw [e] at h; exact absurd hm h
  · rw [e] at h; exact absurd rfl h
  · exact ⟨hb, job, hc⟩

/-- The host write that takes the sequencer out of NOT_BUSY is an accepted write of an assigned code to OP (R130). -/
theorem step_write_leaves_notBusy {s t : State} {rest : List Input} {sp : Space} {off width : Nat} {data : Word}
    (hin : s.inputs = .host (.write sp off width data) :: rest ∨ s.inputs = .hostOverlapped (.write sp off width data) :: rest)
    (hs : step s = .next t) (hm : s.major = .notBusy) (ht : t.major ≠ .notBusy) :
    sp = .reg ∧ width = 32 ∧ off = 0x00 ∧ s.stState ≠ .busy ∧ ∃ i, decodeOpWord data = .ok i := by
  rcases step_write hin with ⟨-, -, -, e⟩ | ⟨-, ⟨-, e⟩ | ⟨hb, ⟨hsp, hw, hoff, body, -, e⟩ | ⟨n, e⟩ | ⟨m, e⟩ | ⟨c, e⟩ |
    ⟨-, -, -, e⟩ | ⟨-, -, -, e⟩ | e⟩⟩ <;> rw [e] at hs <;> cases hs
  · rw [writeStatus_eq] at ht; exact absurd hm ht
  · exact absurd hm ht
  · obtain ⟨-, job, hc⟩ := startOperation_leaves_notBusy (s := { s with inputs := rest }) hm ht
    obtain ⟨-, hop, -⟩ := issueCheck_ok hc
    exact ⟨hsp, hw, hoff, hb, hop⟩
  all_goals exact absurd hm ht

/-- At rest the sequencer drops every answer (R190, R252). -/
theorem receiveAnswer_notBusy {s : State} (hm : s.major = .notBusy) (call : Nat) (a : Answer) : receiveAnswer call a s = s := by
  simp only [receiveAnswer, hm]

/-- Settles O57, by the inputs a step can take. -/
theorem onlyOpWriteStartsAnOperation : Obligations.OnlyOpWriteStartsAnOperation := by
  unfold Obligations.OnlyOpWriteStartsAnOperation
  intro s t hs hm ht
  rcases step_cases s with ⟨rest, hturn⟩ | ⟨rest, sp, off, width, data, hin⟩ | ⟨rest, sp, off, width, hin⟩ |
    ⟨rest, call, a, -, e⟩ | ⟨rest, -, e⟩
  · rw [step_turn hturn, sequencerStep_notBusy (s := { s with inputs := rest }) hm] at hs; cases hs
    exact absurd hm ht
  · obtain ⟨rfl, rfl, rfl, hb, i, hi⟩ := step_write_leaves_notBusy hin hs hm ht
    exact ⟨data, rest, i, hi, hb, hin⟩
  · obtain ⟨w, d, e, -⟩ := hostRead_eq sp off width { s with inputs := rest }
    rw [step_read hin, e] at hs; cases hs
    exact absurd hm ht
  · rw [e] at hs; cases hs
    rw [receiveAnswer_notBusy (s := { s with inputs := rest }) hm] at ht
    exact absurd hm ht
  · rw [e] at hs; cases hs
    exact absurd rfl ht

/-! ### The operands of a running operation -/

/-- While BUSY a host write touches OVR alone (R27, R67, R131). -/
theorem step_write_busy {s t : State} {rest : List Input} {sp : Space} {off width : Nat} {data : Word}
    (hin : s.inputs = .host (.write sp off width data) :: rest ∨ s.inputs = .hostOverlapped (.write sp off width data) :: rest)
    (hs : step s = .next t) (hb : s.stState = .busy) : ∃ b, t = { s with inputs := rest, ovr := b } := by
  rcases step_write hin with ⟨-, -, -, e⟩ | ⟨-, ⟨-, e⟩ | ⟨hb', -⟩⟩
  · rw [e, writeStatus_eq] at hs; cases hs
    exact ⟨_, rfl⟩
  · rw [e] at hs; cases hs
    exact ⟨_, rfl⟩
  · exact absurd hb hb'

/-- No host write changes M_MAX (R32). -/
theorem step_write_mMax {s t : State} {rest : List Input} {sp : Space} {off width : Nat} {data : Word}
    (hin : s.inputs = .host (.write sp off width data) :: rest ∨ s.inputs = .hostOverlapped (.write sp off width data) :: rest)
    (hs : step s = .next t) : t.mMax = s.mMax := by
  rcases step_write hin with ⟨-, -, -, e⟩ | ⟨-, ⟨-, e⟩ | ⟨-, ⟨-, -, -, body, hbody, e⟩ | ⟨n, e⟩ | ⟨m, e⟩ | ⟨c, e⟩ |
    ⟨-, -, -, e⟩ | ⟨-, -, -, e⟩ | e⟩⟩ <;> rw [e] at hs <;> cases hs
  · rw [writeStatus_eq]
  · rfl
  · obtain ⟨_, _, _, _, _, _, _, _, _, he, -⟩ := startOperation_shape data s body hbody rest
    rw [he]
  all_goals rfl

/-- What an operation reads but RXBUF is in `t` as in `s`: CAPS, OP.CODE, N, M, CAT, and VBUF with the reset number its unwritten
bytes are read through (R32, R113, R131). -/
structure State.SameOperands (s t : State) : Prop where
  mMax : t.mMax = s.mMax
  opCode : t.opCode = s.opCode
  n : t.n = s.n
  m : t.m = s.m
  cat : t.cat = s.cat
  epoch : t.epoch = s.epoch
  vbuf : t.vbuf = s.vbuf

/-- A step of the sequencer changes neither the operands nor RXBUF (R102, R103). -/
theorem step_turn_operands {s t : State} {rest : List Input} (h : SequencerTurn s rest) (hs : step s = .next t) :
    s.SameOperands t ∧ t.rxbuf = s.rxbuf := by
  rcases step_sequencer h with ⟨job, i, k, -, e⟩ | ⟨job, i, -, e⟩ | ⟨-, e⟩
  · obtain ⟨_, _, _, _, _, _, he⟩ := encodeStep_shape job i k { s with inputs := rest }
    rw [e, he] at hs; cases hs
    exact ⟨⟨rfl, rfl, rfl, rfl, rfl, rfl, rfl⟩, rfl⟩
  · obtain ⟨_, _, _, _, _, he⟩ := decodeStep_shape job i { s with inputs := rest }
    rw [e, he] at hs; cases hs
    exact ⟨⟨rfl, rfl, rfl, rfl, rfl, rfl, rfl⟩, rfl⟩
  · rw [e] at hs; cases hs
    exact ⟨⟨rfl, rfl, rfl, rfl, rfl, rfl, rfl⟩, rfl⟩

/-- The return of the outstanding exchange changes of the operands only RXBUF, any other answer nothing (R195, R201, R252). -/
theorem receiveAnswer_operands (call : Nat) (a : Answer) (s : State) :
    s.SameOperands (receiveAnswer call a s) ∧
      ((receiveAnswer call a s).rxbuf = s.rxbuf ∨ ∃ job, s.major = .exchange job ∧ call = s.calls.length) := by
  obtain ⟨rx, _, _, _, _, _, e, hrx⟩ := receiveAnswer_shape call a s
  rw [e]
  exact ⟨⟨rfl, rfl, rfl, rfl, rfl, rfl, rfl⟩, (em (rx = s.rxbuf)).imp_right hrx⟩

/-- Settles O60, by the inputs a step can take. -/
theorem operandsAreFixedWhileBusy : Obligations.OperandsAreFixedWhileBusy := by
  unfold Obligations.OperandsAreFixedWhileBusy
  intro s t hs
  rcases step_cases s with ⟨rest, hturn⟩ | ⟨rest, sp, off, width, data, hin⟩ | ⟨rest, sp, off, width, hin⟩ |
    ⟨rest, call, a, hin, e⟩ | ⟨rest, hin, e⟩
  · obtain ⟨⟨hmax, hop, hn, hm, hcat, hepoch, hv⟩, hrx⟩ := step_turn_operands hturn hs
    exact ⟨hmax, fun _ _ => ⟨hop, hn, hm, hcat, hepoch, hv, .inl hrx⟩⟩
  · refine ⟨step_write_mMax hin hs, fun hb _ => ?_⟩
    obtain ⟨_, rfl⟩ := step_write_busy hin hs hb
    exact ⟨rfl, rfl, rfl, rfl, rfl, rfl, .inl rfl⟩
  · obtain ⟨_, _, e, -⟩ := hostRead_eq sp off width { s with inputs := rest }
    rw [step_read hin, e] at hs; cases hs
    exact ⟨rfl, fun _ _ => ⟨rfl, rfl, rfl, rfl, rfl, rfl, .inl rfl⟩⟩
  · rw [e] at hs; cases hs
    obtain ⟨⟨hmax, hop, hn, hm, hcat, hepoch, hv⟩, hrx⟩ := receiveAnswer_operands call a { s with inputs := rest }
    refine ⟨hmax, fun _ _ => ⟨hop, hn, hm, hcat, hepoch, hv, hrx.imp_right ?_⟩⟩
    rintro ⟨job, hexchange, rfl⟩
    exact ⟨job, a, rest, hexchange, hin⟩
  · rw [e] at hs; cases hs
    exact ⟨rfl, fun _ hreset => absurd hin (hreset rest)⟩

end Sys2Proof.Machine
end

section
/-! The FrameCodec (spec/41_framecodec.md): what the source says of its encoders (R160) and its decoder (R157, R159), and the three
operations ENC_LEARN, ENC_CLASSIFY and DEC_CLASSIFY with all they change (R152, R155, R158). -/

namespace Sys2Proof.Machine

/-! ### The encoders -/

/-- The slots after the vector are those of the tail, in order (R93, R94). -/
theorem getElem?_frame_tail (kind : FrameKind) (v tail : List Byte) (p : Nat) :
    (frameStart kind v.length ++ (v ++ tail))[v.length + 3 + p]? = tail[p]? := by
  rw [getElem?_frame, if_neg (by omega), if_neg (by omega), if_neg (by omega), if_neg (by omega), Nat.add_sub_cancel_left]

/-- A LEARN frame carries the category in slot N + 3 (R93). -/
theorem getElem?_learnFrame_category (v : List Byte) (c : Half) : (learnFrame v c)[v.length + 3]? = some (categoryByte c) := by
  rw [learnFrame_eq]
  exact getElem?_frame_tail .learn v [categoryByte c] 0

/-- The category byte is c mod 256 (R106). -/
theorem categoryByte_toNat (c : Half) : (categoryByte c).toNat = c.toNat % 256 := by
  rw [categoryByte, BitVec.extractLsb'_toNat, Nat.shiftRight_zero]

/-- Settles O5: the length field is read back from its two bytes, the category from the first slot after the vector. -/
theorem encodedFrameProperties : Obligations.EncodedFrameProperties := by
  unfold Obligations.EncodedFrameProperties
  intro v c h₁ h₂
  have hfield : (unbe16 ((lengthField v.length).extractLsb' 8 8) ((lengthField v.length).extractLsb' 0 8)).toNat =
      v.length - 1 := by
    rw [unbe16_bytes]
    exact Nat.eq_sub_of_add_eq (lengthField_toNat h₁ h₂)
  exact ⟨learnFrame_length v c, rfl, ⟨_, _, rfl, rfl, hfield⟩,
    ⟨_, getElem?_learnFrame_category v c, categoryByte_toNat c⟩, classifyFrame_length v⟩

/-! ### The decoder -/

/-- Settles O9: both halves of the result are put together from the bytes they were cut into. -/
theorem plantedResponseDecodes : Obligations.PlantedResponseDecodes := by
  unfold Obligations.PlantedResponseDecodes
  refine ⟨toNat_append_add, fun n D C r _ _ hdistHi hdistLo hcatHi hcatLo => ?_⟩
  simp only [decodeClassify, Nat.zero_add, hdistHi, hdistLo, hcatHi, hcatLo, unbe16_bytes]

/-! ### The operations -/

/-- A host operation that is not MULTI, with a legal N while not BUSY, passes its checks and runs its body (R134, R137). -/
theorem exec_single {op : Instr} {s : State} (hf : op.format = .hostOp) (hm : codeIsMulti (encodeByte op) = false)
    (hb : s.stState ≠ .busy) (h₁ : 1 ≤ s.n.toNat) (h₂ : s.n.toNat ≤ 64) :
    exec op s = .next (operationBody op (jobOf (encodeByte op) s) (issued (encodeByte op) s)) := by
  have hmulti : codeIsMulti (encodeByte op) = true → 1 ≤ s.m.toNat ∧ s.m.toNat ≤ s.mMax.toNat :=
    fun h => absurd h (Bool.eq_false_iff.1 hm)
  rw [exec_hostOp hf, startOperation_ok hb (issueCheck_pass (decodeByte_encodeByte hf) h₁ h₂ hmulti)]

/-- What an operation that completes with `bytes` at TXBUF offset 0 leaves: the bytes below L, every other byte of TXBUF as it
was, and only OP, STATUS, LEN and the major state changed beside TXBUF (R104, R130, R138). -/
theorem complete_writeTxbuf_effect (code : Byte) (s : State) {job : Job} {bytes : List Byte} {L : Nat}
    (hjob : job.length = L) (hbytes : bytes.length = L) {t : State}
    (ht : t = complete job (writeTxbuf 0 bytes (issued code s))) :
    (∀ k, k < L → some (readTxbuf t k) = bytes[k]?) ∧
    (∀ k, L ≤ k → readTxbuf t k = readTxbuf s k) ∧
    t = { s with
      opCode := code, stState := .done, stErr := .none, len := BitVec.ofNat 32 L, major := .notBusy, txbuf := t.txbuf } := by
  subst hjob ht
  refine ⟨fun k hk => ?_, fun k hk => ?_, rfl⟩
  · exact readTxbuf_writeTxbuf_in (Nat.zero_le k) (by omega)
  · exact readTxbuf_writeTxbuf_out (s := issued code s) (by omega)

/-- The same for an operation that completes with `entries` in RES from entry 0 on (R104, R130, R138). -/
theorem complete_writeRes_effect (code : Byte) (s : State) {job : Job} (entries : List Result) {L : Nat}
    (hjob : job.length = L) {t : State} (ht : t = complete job (writeRes 0 entries (issued code s))) :
    (∀ i, i < entries.length → some (readRes t i) = entries[i]?) ∧
    (∀ i, entries.length ≤ i → readRes t i = readRes s i) ∧
    t = { s with
      opCode := code, stState := .done, stErr := .none, len := BitVec.ofNat 32 L, major := .notBusy, res := t.res } := by
  subst hjob ht
  refine ⟨fun i hi => ?_, fun i hi => ?_, rfl⟩
  · exact readRes_writeRes_in (Nat.zero_le i) (by omega)
  · exact readRes_writeRes_out (s := issued code s) (by omega)

/-- Settles O14: the body of ENC_LEARN completes with learn_frame, whose N + 4 bytes are the L of its job. -/
theorem encLearnBuildsItsFrame : Obligations.EncLearnBuildsItsFrame := by
  unfold Obligations.EncLearnBuildsItsFrame
  intro s hb h₁ h₂
  have hlength : (learnFrame (sampleVector s 0) s.cat).length = s.n.toNat + 4 := by
    rw [learnFrame_length, sampleVector_length]
  exact ⟨_, exec_single (op := .encLearn) rfl rfl hb h₁ h₂,
    complete_writeTxbuf_effect 0x01 s (jobOf_length_learn rfl rfl s) hlength rfl⟩

/-- Settles O15: the body of ENC_CLASSIFY completes with classify_frame, whose N + 11 bytes are the L of its job. -/
theorem encClassifyBuildsItsFrame : Obligations.EncClassifyBuildsItsFrame := by
  unfold Obligations.EncClassifyBuildsItsFrame
  intro s hb h₁ h₂
  have hlength : (classifyFrame (sampleVector s 0)).length = s.n.toNat + 11 := by
    rw [classifyFrame_length, sampleVector_length]
  exact ⟨_, exec_single (op := .encClassify) rfl rfl hb h₁ h₂,
    complete_writeTxbuf_effect 0x02 s (jobOf_length_classify rfl rfl s) hlength rfl⟩

/-- Settles O17: the body of DEC_CLASSIFY completes with the one entry decode_classify gives at base 0. -/
theorem decClassifyWritesItsResult : Obligations.DecClassifyWritesItsResult := by
  unfold Obligations.DecClassifyWritesItsResult
  intro s hb h₁ h₂
  refine ⟨_, exec_single (op := .decClassify) rfl rfl hb h₁ h₂, ?_⟩
  obtain ⟨hentry, hothers, hframe⟩ := complete_writeRes_effect 0x04 s [decodeClassify (readRxbuf s) 0 s.n.toNat]
    (jobOf_length_classify (code := 0x04) rfl rfl s) rfl
  refine ⟨(Option.some.inj (hentry 0 Nat.one_pos)).trans ?_, hothers, hframe⟩
  simp only [decodeClassify, Nat.zero_add]

end Sys2Proof.Machine
end

section
/-! The BatchComposer (spec/42_batchcomposer.md): a batch is decoded slice by slice (R177), the two operations ENC_CLASSIFY_MULTI
and DEC_CLASSIFY_MULTI with all they change (R172, R175), and a batch of one sample (R176). -/

namespace Sys2Proof.Machine

/-! ### The decoder -/

/-- Result i of a batch is decoded at base i·(N + 11) (R173, R174). -/
theorem getElem?_decodeMulti (r : Nat → Byte) {m i : Nat} (hi : i < m) (n : Nat) :
    (decodeMulti r m n)[i]? = some (decodeClassify r (i * (n + 11)) n) := by
  simp [decodeMulti, hi, strideOf]

/-- A result is told by the N + 11 bytes from its base on (R99, R156). -/
theorem decodeClassify_congr {r r' : Nat → Byte} {b b' n : Nat} (h : ∀ k, k < n + 11 → r (b + k) = r' (b' + k)) :
    decodeClassify r b n = decodeClassify r' b' n := by
  simp only [decodeClassify, Nat.add_assoc]
  rw [h (n + 5) (by omega), h (n + 6) (by omega), h (n + 9) (by omega), h (n + 10) (by omega)]

/-- Reading slices of one length laid end to end, with a default, reads the slice at its stride. -/
theorem getD_flatten_stride {S : Nat} {xs : List (List Byte)} (h : ∀ x ∈ xs, x.length = S) {i k : Nat} {x : List Byte}
    (hx : xs[i]? = some x) (hk : k < S) : xs.flatten.getD (i * S + k) 0 = x.getD k 0 := by
  rw [List.getD_eq_getElem?_getD, getElem?_flatten_stride h i k hk, hx, Option.bind_some, List.getD_eq_getElem?_getD]

/-- Decoding slices laid end to end decodes each slice alone, in order (R177). -/
theorem decodeMulti_flatten {n : Nat} {slices : List (List Byte)} (h : ∀ x ∈ slices, x.length = n + 11) :
    decodeMulti (fun k => slices.flatten.getD k 0) slices.length n =
      slices.map fun x => decodeClassify (fun k => x.getD k 0) 0 n := by
  refine List.ext_getElem (by rw [decodeMulti_length, List.length_map]) fun i _ hi => Option.some.inj ?_
  rw [List.length_map] at hi
  rw [← List.getElem?_eq_getElem, getElem?_decodeMulti _ hi, List.getElem_map]
  refine congrArg some (decodeClassify_congr fun k hk => ?_)
  rw [Nat.zero_add, getD_flatten_stride h (List.getElem?_eq_getElem hi) hk]

/-- Settles O10: the slices of a response have the stride of the frames. -/
theorem batchDecodesSliceBySlice : Obligations.BatchDecodesSliceBySlice := by
  unfold Obligations.BatchDecodesSliceBySlice
  intro n vs slices _ _ hvs hslices
  exact ⟨multiFrame_length hvs, rfl, decodeMulti_flatten hslices⟩

/-! ### The operations -/

/-- A host operation with a legal N and a legal M while not BUSY passes its checks and runs its body (R134, R135, R137). -/
theorem exec_legal {op : Instr} {s : State} (hf : op.format = .hostOp) (hb : s.stState ≠ .busy) (h₁ : 1 ≤ s.n.toNat)
    (h₂ : s.n.toNat ≤ 64) (hm : 1 ≤ s.m.toNat ∧ s.m.toNat ≤ s.mMax.toNat) :
    exec op s = .next (operationBody op (jobOf (encodeByte op) s) (issued (encodeByte op) s)) := by
  rw [exec_hostOp hf, startOperation_ok hb (issueCheck_pass (decodeByte_encodeByte hf) h₁ h₂ fun _ => hm)]

/-- Settles O16: the body completes with multi_frame, whose M·(N + 11) bytes are the L of its job. -/
theorem encClassifyMultiBuildsItsFrame : Obligations.EncClassifyMultiBuildsItsFrame := by
  unfold Obligations.EncClassifyMultiBuildsItsFrame
  intro s hb h₁ h₂ hm₁ hm₂
  exact ⟨_, exec_legal (op := .encClassifyMulti) rfl hb h₁ h₂ ⟨hm₁, hm₂⟩,
    complete_writeTxbuf_effect 0x03 s (jobOf_length_multi rfl rfl s) (multiFrame_sampleVectors_length s s.m.toNat) rfl⟩

/-- Settles O18: the body completes with the M entries decode_multi gives, entry i from the bytes of sample i. -/
theorem decClassifyMultiWritesItsResults : Obligations.DecClassifyMultiWritesItsResults := by
  unfold Obligations.DecClassifyMultiWritesItsResults
  intro s hb h₁ h₂ hm₁ hm₂
  refine ⟨_, exec_legal (op := .decClassifyMulti) rfl hb h₁ h₂ ⟨hm₁, hm₂⟩, ?_⟩
  obtain ⟨hentries, hothers, hframe⟩ := complete_writeRes_effect 0x05 s (decodeMulti (readRxbuf s) s.m.toNat s.n.toNat)
    (jobOf_length_multi (code := 0x05) rfl rfl s) rfl
  rw [decodeMulti_length] at hentries hothers
  refine ⟨fun i hi => Option.some.inj ?_, hothers, hframe⟩
  exact (hentries i hi).trans (getElem?_decodeMulti (readRxbuf s) hi s.n.toNat)

/-! ### A batch of one sample -/

/-- The batch frame of one vector is its CLASSIFY frame (R176). -/
theorem multiFrame_singleton (v : List Byte) : multiFrame [v] = classifyFrame v := by
  rw [multiFrame_cons]
  exact List.append_nil _

/-- The one result of a batch of one is decoded at base 0 (R176). -/
theorem decodeMulti_one (r : Nat → Byte) (n : Nat) : decodeMulti r 1 n = [decodeClassify r 0 n] := by
  simp [decodeMulti]

/-- With M = 1 the frame written is the one of ENC_CLASSIFY (R176). -/
theorem writeMultiFrame_one {s : State} (hone : s.m.toNat = 1) : writeMultiFrame s = writeClassifyFrame s := by
  rw [writeMultiFrame, sampleCount, hone]
  exact congrArg (writeTxbuf 0 · s) (multiFrame_singleton (sampleVector s 0))

/-- With M = 1 the result written is the one of DEC_CLASSIFY (R176). -/
theorem writeMultiResults_one {s : State} (hone : s.m.toNat = 1) : writeMultiResults s = writeClassifyResult s := by
  rw [writeMultiResults, sampleCount, hone, decodeMulti_one, writeClassifyResult]

/-- With M = 1 the L of a MULTI operation is that of the single-sample one (R133, R176). -/
theorem jobOf_length_one {multi single : Byte} {s : State} (hone : s.m.toNat = 1) (hmulti : codeIsMulti multi = true)
    (hmultiKind : codeKind multi = .classify) (hsingle : codeIsMulti single = false) (hsingleKind : codeKind single = .classify) :
    (jobOf multi s).length = (jobOf single s).length := by
  rw [jobOf_length_multi hmulti hmultiKind, jobOf_length_classify hsingle hsingleKind, hone, Nat.one_mul]

/-- Operations that have written the same and have the same L complete alike, OP.CODE apart (R138). -/
theorem complete_same_but_opCode {job job' : Job} {t t' : State} {code : Byte} (hlength : job'.length = job.length)
    (hwrite : t' = { t with opCode := code }) : complete job' t' = { complete job t with opCode := code } := by
  simp only [complete, hlength, hwrite]

/-- Settles O22: with M = 1 both operations of a pair write the same and complete with the same L. -/
theorem batchOfOneIsTheSingleOperation : Obligations.BatchOfOneIsTheSingleOperation := by
  unfold Obligations.BatchOfOneIsTheSingleOperation
  refine ⟨multiFrame_singleton, decodeMulti_one, fun s hb h₁ h₂ hm hmax => ?_⟩
  have hone : s.m.toNat = 1 := by rw [hm]; rfl
  have hlegal : 1 ≤ s.m.toNat ∧ s.m.toNat ≤ s.mMax.toNat :=
    ⟨hone.ge, hone.trans_le (Nat.one_le_iff_ne_zero.2 fun h => hmax (BitVec.eq_of_toNat_eq h))⟩
  constructor
  · refine ⟨_, exec_legal (op := .encClassify) rfl hb h₁ h₂ hlegal, ?_⟩
    rw [exec_legal (op := .encClassifyMulti) rfl hb h₁ h₂ hlegal]
    exact congrArg _ (complete_same_but_opCode (t := writeClassifyFrame (issued 0x02 s)) (job := jobOf 0x02 s)
      (jobOf_length_one hone rfl rfl rfl rfl) (writeMultiFrame_one (s := issued 0x03 s) hone))
  · refine ⟨_, exec_legal (op := .decClassify) rfl hb h₁ h₂ hlegal, ?_⟩
    rw [exec_legal (op := .decClassifyMulti) rfl hb h₁ h₂ hlegal]
    exact congrArg _ (complete_same_but_opCode (t := writeClassifyResult (issued 0x04 s)) (job := jobOf 0x04 s)
      (jobOf_length_one hone rfl rfl rfl rfl) (writeMultiResults_one (s := issued 0x05 s) hone))

end Sys2Proof.Machine
end

section
/-! Transactions (spec/43_transactions.md): a TXN operation up to its one call (R190, R194, R196 to R198), the wait for its answer
(R193), what either answer does (R195, R201), and a whole transaction with each (R197 to R199, R231). -/

namespace Sys2Proof.Machine

/-! ### Up to the exchange -/

/-- Where a transaction waits for its answer: issued, its frame at TXBUF offset 0 and handed over in one call (R130, R190, R194). -/
def sendFrame (code : Byte) (job : Job) (s : State) : State :=
  enterExchange job (writeTxbuf 0 (jobFrame job s) (issued code s))

/-- No operation with an exchange only decodes (R110, R111). -/
theorem codeIsDecode_of_exchange {op : Instr} (hf : op.format = .hostOp) (hx : codeHasExchange (encodeByte op) = true) :
    codeIsDecode (encodeByte op) = false := by
  cases op
  case learnCommand | classifyCommand | readDistance | readCategory | dummy => cases hf
  case decClassify | decClassifyMulti => exact absurd hx (by decide)
  all_goals decide

/-- A TXN operation whose checks pass sends the frame of its job (R194, R196 to R198). -/
theorem exec_txn {op : Instr} {s : State} {job : Job} (hf : op.format = .hostOp) (hx : codeHasExchange (encodeByte op) = true)
    (hb : s.stState ≠ .busy) (hc : issueCheck (encodeByte op) s = .ok job) :
    exec op s = .next (sendFrame (encodeByte op) job s) := by
  obtain rfl : job = jobOf (encodeByte op) s := (issueCheck_ok hc).1
  rw [exec_hostOp hf, startOperation_ok hb hc]
  exact congrArg _ ((operationBody_encode (s := issued (encodeByte op) s) hf (codeIsDecode_of_exchange hf hx)).trans
    (finishEncode_exchange hx (issued (encodeByte op) s) _))

theorem readTxbuf_sendFrame_in {code : Byte} {s : State} {job : Job} (hc : issueCheck code s = .ok job) {k : Nat}
    (hk : k < job.length) : some (readTxbuf (sendFrame code job s) k) = (jobFrame job s)[k]? :=
  readTxbuf_writeTxbuf_in (s := issued code s) (Nat.zero_le k) (by rw [jobFrame_length hc]; omega)

theorem readTxbuf_sendFrame_out {code : Byte} {s : State} {job : Job} (hc : issueCheck code s = .ok job) {k : Nat}
    (hk : job.length ≤ k) : readTxbuf (sendFrame code job s) k = readTxbuf s k :=
  readTxbuf_writeTxbuf_out (s := issued code s) (by rw [jobFrame_length hc]; omega)

/-- TXBUF[0, L) is the frame (R194). -/
theorem txBytes_sendFrame {code : Byte} {s : State} {job : Job} (hc : issueCheck code s = .ok job) :
    txBytes (sendFrame code job s) job.length = jobFrame job s := by
  have hlen := jobFrame_length hc
  rw [← hlen]
  exact txBytes_eq fun k hk => readTxbuf_sendFrame_in hc (hlen ▸ hk)

/-- The one call carries the frame (R190, R194). -/
theorem sendFrame_calls {code : Byte} {s : State} {job : Job} (hc : issueCheck code s = .ok job) :
    (sendFrame code job s).calls = s.calls ++ [{ length := job.length, tx := jobFrame job s }] := by
  rw [← txBytes_sendFrame hc]; rfl

/-- What a transaction does up to its exchange: TXBUF beyond L as it was, the frame below it, and only OP, STATUS, the major state
and the calls changed beside TXBUF (R194). -/
theorem sendFrame_effect {code : Byte} {s : State} {job : Job} (hc : issueCheck code s = .ok job) :
    (∀ k, job.length ≤ k → readTxbuf (sendFrame code job s) k = readTxbuf s k) ∧
    txBytes (sendFrame code job s) job.length = jobFrame job s ∧
    sendFrame code job s = { s with
      opCode := code, stState := .busy, stErr := .none, major := .exchange job
      calls := s.calls ++ [{ length := job.length, tx := jobFrame job s }], txbuf := (sendFrame code job s).txbuf } := by
  refine ⟨fun _ hk => readTxbuf_sendFrame_out hc hk, txBytes_sendFrame hc, ?_⟩
  rw [← sendFrame_calls hc]; rfl

/-- The job of a single-sample LEARN operation (R93, R133). -/
theorem jobOf_learn {code : Byte} (hm : codeIsMulti code = false) (hk : codeKind code = .learn) (s : State) :
    jobOf code s =
      { code := code, kind := .learn, samples := 1, stride := s.n.toNat + 4, length := s.n.toNat + 4 } := by
  simp [jobOf, hm, hk, strideOf]

/-- The job of a single-sample CLASSIFY operation (R94, R133). -/
theorem jobOf_classify {code : Byte} (hm : codeIsMulti code = false) (hk : codeKind code = .classify) (s : State) :
    jobOf code s =
      { code := code, kind := .classify, samples := 1, stride := s.n.toNat + 11, length := s.n.toNat + 11 } := by
  simp [jobOf, hm, hk, strideOf]

/-- The job of a MULTI operation (R97, R133). -/
theorem jobOf_multi {code : Byte} (hm : codeIsMulti code = true) (hk : codeKind code = .classify) (s : State) :
    jobOf code s =
      { code := code, kind := .classify, samples := s.m.toNat, stride := s.n.toNat + 11
        length := s.m.toNat * (s.n.toNat + 11) } := by
  simp [jobOf, hm, hk, strideOf]

/-- The check of an operation that is not MULTI passes with a legal N (R134, R137). -/
theorem issueCheck_pass_single {op : Instr} {s : State} (hf : op.format = .hostOp) (hm : codeIsMulti (encodeByte op) = false)
    (h₁ : 1 ≤ s.n.toNat) (h₂ : s.n.toNat ≤ 64) : issueCheck (encodeByte op) s = .ok (jobOf (encodeByte op) s) :=
  issueCheck_pass (decodeByte_encodeByte hf) h₁ h₂ fun h => absurd h (Bool.eq_false_iff.1 hm)

/-- Settles O19: the frame of its job is learn_frame. -/
theorem txnLearnSendsItsFrame : Obligations.TxnLearnSendsItsFrame := by
  unfold Obligations.TxnLearnSendsItsFrame
  intro s hb h₁ h₂
  have hc := issueCheck_pass_single (op := .txnLearn) rfl rfl h₁ h₂
  rw [jobOf_learn rfl rfl] at hc
  exact ⟨_, exec_txn rfl rfl hb hc, sendFrame_effect hc⟩

/-- Settles O20: the frame of its job is the batch frame of one sample, which is classify_frame. -/
theorem txnClassifySendsItsFrame : Obligations.TxnClassifySendsItsFrame := by
  unfold Obligations.TxnClassifySendsItsFrame
  intro s hb h₁ h₂
  have hc := issueCheck_pass_single (op := .txnClassify) rfl rfl h₁ h₂
  rw [jobOf_classify rfl rfl] at hc
  have heffect := sendFrame_effect hc
  rw [jobFrame_single rfl rfl] at heffect
  exact ⟨_, exec_txn rfl rfl hb hc, heffect⟩

/-- Settles O21: the frame of its job is the batch frame of all M samples. -/
theorem txnClassifyMultiSendsItsFrame : Obligations.TxnClassifyMultiSendsItsFrame := by
  unfold Obligations.TxnClassifyMultiSendsItsFrame
  intro s hb h₁ h₂ hm₁ hm₂
  have hc := issueCheck_pass (decodeByte_encodeByte (op := .txnClassifyMulti) rfl) h₁ h₂ fun _ => ⟨hm₁, hm₂⟩
  rw [jobOf_multi rfl rfl] at hc
  exact ⟨_, exec_txn rfl rfl hb hc, sendFrame_effect hc⟩

/-! ### The wait for an answer -/

/-- An invariant of the step holds along every run, and no run stops (R74). -/
theorem run_keeps {P : State → Prop} (hstep : ∀ s t, P s → step s = .next t → P t) (k : Nat) {s : State} (h : P s) :
    ∃ t, core.run k s = .next t ∧ P t := by
  induction k generalizing s with
  | zero => exact ⟨s, rfl, h⟩
  | succ k ih =>
    obtain ⟨t, hs⟩ := stepNeverStops s
    rw [run_succ k s t hs]
    exact ih (hstep s t h hs)

/-- The exchange of this job is outstanding, and among the inputs to come there is neither its answer nor a reset (R193). -/
structure State.Unanswered (job : Job) (s : State) : Prop where
  exchange : s.major = .exchange job
  busy : s.stState = .busy
  quiet : ∀ x ∈ s.inputs, x ≠ .reset ∧ ∀ a, x ≠ .answer s.calls.length a

/-- A step that leaves the sequencer, STATE and the calls, and brings no new input, leaves the exchange unanswered. -/
theorem State.Unanswered.of_same {job : Job} {s t : State} (h : s.Unanswered job) (hm : t.major = s.major)
    (hb : t.stState = s.stState) (hc : t.calls = s.calls) (hin : t.inputs ⊆ s.inputs) : t.Unanswered job :=
  ⟨hm.trans h.exchange, hb.trans h.busy, fun x hx => hc ▸ h.quiet x (hin hx)⟩

theorem SequencerTurn.rest_subset {s : State} {rest : List Input} (h : SequencerTurn s rest) : rest ⊆ s.inputs := by
  rcases h with ⟨-, rfl⟩ | h
  · exact List.nil_subset _
  · rw [h]; exact List.subset_cons_self _ _

/-- EXCHANGE waits: the sequencer does nothing, host writes touch OVR alone and reads what they return, and an answer to another
call is dropped (R67, R73, R193; log 10). -/
theorem State.Unanswered.of_step {job : Job} {s t : State} (h : s.Unanswered job) (hs : step s = .next t) : t.Unanswered job := by
  rcases step_cases s with ⟨rest, hturn⟩ | ⟨rest, sp, off, width, data, hin⟩ | ⟨rest, sp, off, width, hin⟩ |
    ⟨rest, call, a, hin, e⟩ | ⟨rest, hin, -⟩
  · rw [step_turn hturn, sequencerStep_exchange (s := { s with inputs := rest }) h.exchange] at hs; cases hs
    exact h.of_same rfl rfl rfl hturn.rest_subset
  · obtain ⟨_, rfl⟩ := step_write_busy hin hs h.busy
    exact h.of_same rfl rfl rfl (by rcases hin with hin | hin <;> simp [hin])
  · obtain ⟨_, _, e, -⟩ := hostRead_eq sp off width { s with inputs := rest }
    rw [step_read hin, e] at hs; cases hs
    exact h.of_same rfl rfl rfl (by rcases hin with hin | hin <;> simp [hin])
  · rcases receiveAnswer_cases call a { s with inputs := rest } with ⟨_, -, rfl, -⟩ | ⟨-, e'⟩
    · obtain ⟨-, hanswer⟩ := h.quiet _ (hin ▸ List.mem_cons_self)
      exact absurd rfl (hanswer a)
    · rw [e, e'] at hs; cases hs
      exact h.of_same rfl rfl rfl (by simp [hin])
  · obtain ⟨hreset, -⟩ := h.quiet _ (hin ▸ List.mem_cons_self)
    exact absurd rfl hreset

/-- Settles O46: every step keeps the exchange unanswered. -/
theorem unansweredExchangeWaitsForEver : Obligations.UnansweredExchangeWaitsForEver := by
  unfold Obligations.UnansweredExchangeWaitsForEver
  intro s job k hm hb hquiet
  obtain ⟨t, hrun, h⟩ := run_keeps (fun _ _ => State.Unanswered.of_step) k (State.Unanswered.mk (job := job) hm hb hquiet)
  exact ⟨t, hrun, h.exchange, h.busy⟩

/-! ### The answer -/

/-- RXBUF[0, |rx|) ← rx (R201). -/
def storeAnswer (rx : List Byte) (s : State) : State := { writeRxbuf 0 rx s with draws := s.draws + 1 }

theorem readRxbuf_storeAnswer_in {rx : List Byte} {k : Nat} (hk : k < rx.length) (s : State) :
    some (readRxbuf (storeAnswer rx s) k) = rx[k]? :=
  readRxbuf_writeRxbuf_in (s := s) (Nat.zero_le k) (by omega)

theorem readRxbuf_storeAnswer_out {rx : List Byte} {k : Nat} (hk : rx.length ≤ k) (s : State) :
    readRxbuf (storeAnswer rx s) k = readRxbuf s k :=
  readRxbuf_writeRxbuf_out (s := s) (by omega)

/-- An answer of L bytes is what RXBUF receives (R190, R191). -/
theorem receivedBytes_eq {length : Nat} {rx : List Byte} (h : rx.length = length) (draw : Nat) :
    receivedBytes length rx draw = rx := by
  refine List.ext_getElem (by rw [receivedBytes_length, h]) fun k _ hk => ?_
  simp [receivedBytes, hk]

/-- The outstanding exchange returns Ok(rx) with |rx| = L: rx is stored before anything else (R201). -/
theorem step_answer_ok {s : State} {rest : List Input} {job : Job} {rx : List Byte}
    (hin : s.inputs = .answer s.calls.length (.ok rx) :: rest) (hm : s.major = .exchange job) (hrx : rx.length = job.length) :
    step s = .next (finishExchange job (storeAnswer rx { s with inputs := rest })) := by
  rw [step_cons hin]
  simp only [takeInput, receiveAnswer, hm, if_true, receiveOk, receivedBytes_eq hrx, storeAnswer]

/-- The outstanding exchange returns Fail (R195). -/
theorem step_answer_fail {s : State} {rest : List Input} {job : Job} (hin : s.inputs = .answer s.calls.length .fail :: rest)
    (hm : s.major = .exchange job) : step s = .next (receiveFail job { s with inputs := rest }) := by
  rw [step_cons hin]
  simp only [takeInput, receiveAnswer, hm, if_true]

theorem finishExchange_learn {job : Job} (hk : job.kind = .learn) (s : State) : finishExchange job s = complete job s := by
  simp only [finishExchange, hk]

theorem finishExchange_classify {job : Job} (hk : job.kind = .classify) (s : State) :
    finishExchange job s = { s with major := .decode job 0 } := by
  simp only [finishExchange, hk]

theorem readRxbuf_finishExchange (job : Job) (s : State) (k : Nat) : readRxbuf (finishExchange job s) k = readRxbuf s k := by
  unfold finishExchange
  split <;> rfl

/-- A failed exchange leaves RXBUF from L on (R195). -/
theorem readRxbuf_receiveFail {job : Job} {k : Nat} (hk : job.length ≤ k) (s : State) :
    readRxbuf (receiveFail job s) k = readRxbuf s k :=
  readRxbuf_writeRxbuf_out (s := s) (by rw [failedBytes_length]; omega)

/-- Settles O47: rx is stored, and the kind of the job decides what follows. -/
theorem exchangeOkFillsReceiveBuffer : Obligations.ExchangeOkFillsReceiveBuffer := by
  unfold Obligations.ExchangeOkFillsReceiveBuffer
  intro s rest job rx hin hm hrx
  refine ⟨_, step_answer_ok hin hm hrx, fun k hk => ?_, fun k hk => ?_, fun hkind => ?_, fun hkind => ?_⟩
  · rw [readRxbuf_finishExchange, readRxbuf_storeAnswer_in (hrx ▸ hk)]
  · rw [readRxbuf_finishExchange, readRxbuf_storeAnswer_out (hrx ▸ hk)]; rfl
  · rw [finishExchange_learn hkind]; rfl
  · rw [finishExchange_classify hkind]; rfl

/-- Settles O48: what Fail writes beside RXBUF[0, L) is LEN and STATUS. -/
theorem exchangeFailureRaisesTransport : Obligations.ExchangeFailureRaisesTransport := by
  unfold Obligations.ExchangeFailureRaisesTransport
  intro s rest job hin hm
  exact ⟨_, step_answer_fail hin hm, fun _ hk => readRxbuf_receiveFail hk _, rfl⟩

/-! ### Whole transactions -/

/-- A host write of a TXN code whose checks pass sends the frame (R130, R194). -/
theorem step_write_txn {s : State} {rest : List Input} {x : Word} {job : Job}
    (hin : s.inputs = .host (.write .reg 0x00 32 x) :: rest) (hb : s.stState ≠ .busy)
    (hx : codeHasExchange (opCodeOf x) = true) (hc : issueCheck (opCodeOf x) s = .ok job) :
    step s = .next (sendFrame (opCodeOf x) job { s with inputs := rest }) := by
  obtain ⟨-, ⟨op, hop⟩, -⟩ := issueCheck_ok hc
  obtain ⟨hf, hcode⟩ := decodeByte_hostOp_eq hop
  rw [stepRunsTheIssuedOperation s rest x op hin hop]
  rw [← hcode] at hx hc ⊢
  exact exec_txn (s := { s with inputs := rest }) hf hx hb hc

/-- The call a transaction makes is the one after those before it (log 10). -/
theorem sendFrame_calls_length (code : Byte) (job : Job) (s : State) :
    (sendFrame code job s).calls.length = s.calls.length + 1 := by
  simp [sendFrame]

/-- A transaction whose exchange fails: its frame sent, then the failure (R195). -/
theorem run_txn_fail {s : State} {x : Word} {job : Job} (hb : s.stState ≠ .busy) (hx : codeHasExchange (opCodeOf x) = true)
    (hc : issueCheck (opCodeOf x) s = .ok job)
    (hin : s.inputs = [.host (.write .reg 0x00 32 x), .answer (s.calls.length + 1) .fail]) :
    core.run 2 s = .next (receiveFail job (sendFrame (opCodeOf x) job { s with inputs := [] })) := by
  rw [run_succ _ _ _ (step_write_txn hin hb hx hc),
    run_succ _ _ _ (step_answer_fail (rest := []) (by rw [sendFrame_calls_length]; rfl) rfl)]
  rfl

/-- Where the results of a classification transaction are decoded: its frame sent and rx in RXBUF (R197, R198, R201). -/
def answered (code : Byte) (job : Job) (rx : List Byte) (s : State) : State := storeAnswer rx (sendFrame code job s)

/-- A classification transaction whose exchange returns Ok(rx): its frame sent, rx stored, then all results decoded
(R197 to R199). -/
theorem run_txn_classify {s : State} {x : Word} {job : Job} {rx : List Byte} (hb : s.stState ≠ .busy)
    (hx : codeHasExchange (opCodeOf x) = true) (hkind : job.kind = .classify) (hc : issueCheck (opCodeOf x) s = .ok job)
    (hin : s.inputs = [.host (.write .reg 0x00 32 x), .answer (s.calls.length + 1) (.ok rx)])
    (hrx : rx.length = job.length) :
    core.run (job.samples + 2) s = .next (complete job (writeRes 0
      ((List.range job.samples).map (sampleResult job (answered (opCodeOf x) job rx { s with inputs := [] })))
      (answered (opCodeOf x) job rx { s with inputs := [] }))) := by
  rw [run_succ _ _ _ (step_write_txn hin hb hx hc),
    run_succ _ _ _ (step_answer_ok (rest := []) (by rw [sendFrame_calls_length]; rfl) rfl hrx), finishExchange_classify hkind]
  exact run_decode_all (s := answered (opCodeOf x) job rx { s with inputs := [] }) hc rfl

/-- Of `count` results written from entry 0 on, entry i holds result i. -/
theorem readRes_writeResults_in {count i : Nat} (hi : i < count) (f : Nat → Result) (s : State) :
    readRes (writeRes 0 ((List.range count).map f) s) i = f i := by
  refine Option.some.inj ((readRes_writeRes_in (Nat.zero_le i) (by simpa using hi)).trans ?_)
  simp [hi]

theorem readRes_writeResults_out {count i : Nat} (hi : count ≤ i) (f : Nat → Result) (s : State) :
    readRes (writeRes 0 ((List.range count).map f) s) i = readRes s i :=
  readRes_writeRes_out (by simpa using hi)

/-- The result of a sample of a stored answer is decoded from the answer (R199). -/
theorem sampleResult_storeAnswer {job : Job} {rx : List Byte} {s : State} {i : Nat} (hstride : job.stride = s.n.toNat + 11)
    (hlen : job.length = job.samples * job.stride) (hrx : rx.length = job.length) (hi : i < job.samples) :
    sampleResult job (storeAnswer rx s) i = decodeClassify (fun k => rx.getD k 0) (i * (s.n.toNat + 11)) s.n.toNat := by
  rw [← hstride]
  refine decodeClassify_congr fun k hk => Option.some.inj ?_
  have hslot : i * job.stride + k < rx.length := hrx ▸ slot_lt hlen hi (hstride ▸ hk)
  rw [readRxbuf_storeAnswer_in hslot, some_getD hslot]

/-- Settles O51: of a failed transaction TXBUF is what the frame sent left, RXBUF from L on what it was. -/
theorem failedTransactionWritesNoResult : Obligations.FailedTransactionWritesNoResult := by
  unfold Obligations.FailedTransactionWritesNoResult
  intro s x job hb hcode hc hin
  have hx : codeHasExchange (opCodeOf x) = true := by
    rcases hcode with hcode | hcode | hcode <;> rw [hcode] <;> rfl
  have hc' : issueCheck (opCodeOf x) { s with inputs := [] } = .ok job := hc
  refine ⟨_, run_txn_fail hb hx hc hin, rfl, fun k hk => ?_, fun k hk => ⟨?_, ?_⟩, rfl⟩
  · exact (readTxbuf_sendFrame_in hc' hk).trans (getElem?_jobFrame hc' hk)
  · exact readTxbuf_sendFrame_out hc' hk
  · exact readRxbuf_receiveFail hk _

/-- Settles O50: the run ends in the completion of all results, decoded from what the answer stored. -/
theorem classificationPipeline : Obligations.ClassificationPipeline := by
  unfold Obligations.ClassificationPipeline
  intro s x job rx hb hcode hc hin hrx
  obtain ⟨hx, hcodeKind⟩ : codeHasExchange (opCodeOf x) = true ∧ codeKind (opCodeOf x) = .classify := by
    rcases hcode with hcode | hcode <;> rw [hcode] <;> exact ⟨rfl, rfl⟩
  have hkind : job.kind = .classify := by rw [(issueCheck_ok hc).1]; exact hcodeKind
  obtain ⟨-, hstride, hlen, -⟩ := job_of_issueCheck hc
  rw [hkind] at hstride
  have hlength : job.length = job.samples * (s.n.toNat + 11) := hlen.trans (congrArg _ hstride)
  have hc' : issueCheck (opCodeOf x) { s with inputs := [] } = .ok job := hc
  rw [Nat.add_comm 2, ← hlength]
  refine ⟨_, run_txn_classify hb hx hkind hc hin hrx, ?_, fun k hk => ?_, fun k hk => ⟨?_, ?_⟩, fun k hk => ?_, fun i hi => ?_,
    fun i hi => ?_, rfl⟩
  · exact (sendFrame_calls hc').trans (by rw [jobFrame_classify hkind]; rfl)
  · exact (readTxbuf_sendFrame_in hc' hk).trans (by rw [jobFrame_classify hkind]; rfl)
  · exact readTxbuf_sendFrame_out hc' hk
  · exact readRxbuf_storeAnswer_out (hrx.trans_le hk) _
  · exact readRxbuf_storeAnswer_in (hk.trans_eq hrx.symm) _
  · exact (readRes_writeResults_in hi _ _).trans
      (sampleResult_storeAnswer (s := sendFrame (opCodeOf x) job { s with inputs := [] }) hstride hlen hrx hi)
  · exact readRes_writeResults_out hi _ _

/-! ### One exchange at a time -/

/-- The step from `s` to `t` enters EXCHANGE with one call (R190, R194). -/
def EntersExchange (s t : State) : Prop :=
  ∃ job, t.major = .exchange job ∧ codeHasExchange t.opCode = true ∧
    t.calls = s.calls ++ [{ length := job.length, tx := txBytes t job.length }] ∧ ∀ job', s.major ≠ .exchange job'

/-- The end of ENCODE makes no call, or enters EXCHANGE (R40, R102). -/
theorem finishEncode_calls {job : Job} {s t : State} (hcode : job.code = t.opCode) (hcalls : t.calls = s.calls)
    (hm : ∀ job', s.major ≠ .exchange job') :
    (finishEncode job t).calls = s.calls ∨ EntersExchange s (finishEncode job t) := by
  unfold finishEncode
  split
  next hx => exact .inr ⟨job, rfl, hcode ▸ hx, hcalls ▸ rfl, hm⟩
  next => exact .inl hcalls

/-- An encode step makes no call but at the end of ENCODE (R102). -/
theorem encodeStep_calls {job : Job} {i k : Nat} {s : State} (h : s.Inv) (hm : s.major = .encode job i k) :
    (encodeStep job i k s).calls = s.calls ∨ EntersExchange s (encodeStep job i k s) := by
  obtain ⟨hr, -, -, hk⟩ := h.of_encode hm
  obtain ⟨-, hstride, -⟩ := job_of_issueCheck hr.check
  obtain ⟨b, hb⟩ := slotByte_some (i := i) (hstride ▸ hk)
  rw [encodeStep_some hb]
  unfold advanceSlot
  split_ifs
  · exact .inl rfl
  · exact .inl rfl
  · exact finishEncode_calls hr.code_eq rfl (by simp [hm])

/-- The body of an operation makes no call, or enters EXCHANGE (R138, R194). -/
theorem operationBody_calls {op : Instr} {s : State} (hf : op.format = .hostOp) (hcode : s.opCode = encodeByte op)
    (hm : ∀ job', s.major ≠ .exchange job') :
    (operationBody op (jobOf (encodeByte op) s) s).calls = s.calls ∨
      EntersExchange s (operationBody op (jobOf (encodeByte op) s) s) := by
  cases hd : codeIsDecode (encodeByte op) with
  | true => rw [operationBody_decode hf hd]; exact .inl rfl
  | false => rw [operationBody_encode hf hd]; exact finishEncode_calls hcode.symm rfl hm

theorem enterFirstMajor_calls (job : Job) (s : State) : (enterFirstMajor job s).calls = s.calls := by
  unfold enterFirstMajor
  split <;> rfl

/-- A write to OP makes no call, or enters EXCHANGE (R130, R194). -/
theorem startOperation_calls {x : Word} {s₀ s : State} {body : Job → State → State} (hbody : IssueBody x s₀ body)
    (hm : ∀ job', s.major ≠ .exchange job') :
    (startOperation (opCodeOf x) body s).calls = s.calls ∨ EntersExchange s (startOperation (opCodeOf x) body s) := by
  rcases startOperation_cases (opCodeOf x) body s with ⟨-, e⟩ | ⟨-, er, -, e⟩ | ⟨-, job, hc, e⟩ <;> rw [e]
  · exact .inl rfl
  · exact .inl rfl
  · rcases hbody with rfl | ⟨op, -, hf, hcode, rfl, -⟩
    · exact .inl (enterFirstMajor_calls job _)
    · obtain rfl : job = jobOf (opCodeOf x) s := (issueCheck_ok hc).1
      rw [← hcode]
      exact operationBody_calls (s := issued (encodeByte op) s) hf rfl hm

/-- A host write makes no call, or is the write to OP that enters EXCHANGE while not BUSY (R67, R130, R190). -/
theorem step_write_calls {s t : State} {rest : List Input} {sp : Space} {off width : Nat} {data : Word} (h : s.Inv)
    (hin : s.inputs = .host (.write sp off width data) :: rest ∨ s.inputs = .hostOverlapped (.write sp off width data) :: rest)
    (hs : step s = .next t) : t.calls = s.calls ∨ EntersExchange s t := by
  rcases step_write hin with ⟨-, -, -, e⟩ | ⟨-, ⟨-, e⟩ | ⟨hb, ⟨-, -, -, body, hbody, e⟩ | ⟨n, e⟩ | ⟨m, e⟩ | ⟨c, e⟩ |
    ⟨-, -, -, e⟩ | ⟨-, -, -, e⟩ | e⟩⟩ <;> rw [e] at hs <;> cases hs
  · rw [writeStatus_eq]; exact .inl rfl
  · exact .inl rfl
  · exact startOperation_calls (s := { s with inputs := rest }) hbody (by simp [h.notBusy hb])
  all_goals exact .inl rfl

/-- Settles O59, by the inputs a step can take. -/
theorem oneExchangeAtATime : Obligations.OneExchangeAtATime := by
  unfold Obligations.OneExchangeAtATime
  intro s t h hs
  rcases step_cases s with ⟨rest, hturn⟩ | ⟨rest, sp, off, width, data, hin⟩ | ⟨rest, sp, off, width, hin⟩ |
    ⟨rest, call, a, -, e⟩ | ⟨rest, -, e⟩
  · rcases step_sequencer hturn with ⟨job, i, k, hm, e⟩ | ⟨job, i, -, e⟩ | ⟨-, e⟩ <;> rw [e] at hs <;> cases hs
    · exact encodeStep_calls (s := { s with inputs := rest }) { h with } hm
    · obtain ⟨_, _, _, _, _, e⟩ := decodeStep_shape job i { s with inputs := rest }
      rw [e]; exact .inl rfl
    · exact .inl rfl
  · exact step_write_calls h hin hs
  · obtain ⟨_, _, e, -⟩ := hostRead_eq sp off width { s with inputs := rest }
    rw [step_read hin, e] at hs; cases hs
    exact .inl rfl
  · rw [e] at hs; cases hs
    obtain ⟨_, _, _, _, _, _, e, -⟩ := receiveAnswer_shape call a { s with inputs := rest }
    rw [e]; exact .inl rfl
  · rw [e] at hs; cases hs
    exact .inl rfl

end Sys2Proof.Machine
end

section
/-! Reset and late answers (spec/70_reset_and_hazards.md): reset from every state (R250, R252), the state the machine starts from
(R7, R250), and an answer to a call that is not the outstanding one (log 10). -/

namespace Sys2Proof.Machine

/-! ### Reset -/

/-- Reset takes effect whatever the sequencer is doing (R250, R252). -/
theorem step_reset {s : State} {rest : List Input} (h : s.inputs = .reset :: rest) :
    step s = .next (resetMachine { s with inputs := rest }) := step_cons h

/-- Settles O52: the step is `resetMachine`, whose fields are known whatever the state before it. -/
theorem resetRestoresRegisters : Obligations.ResetRestoresRegisters := by
  unfold Obligations.ResetRestoresRegisters
  intro s rest hin
  exact ⟨_, step_reset hin, by simp⟩

/-! ### The state the machine starts from -/

/-- The open parameter is one more than a number below 65535, so it does not wrap to 0 (R7). -/
theorem mMax_ne_zero : Config.mMax ≠ 0 := by
  have hlt : Config.mMaxLessOne.val < 65535 := Config.mMaxLessOne.isLt
  have htoNat : Config.mMax.toNat = Config.mMaxLessOne.val + 1 := by
    rw [Config.mMax, BitVec.toNat_ofNat, Nat.mod_eq_of_lt (by omega)]
  intro h
  simp [h] at htoNat

/-- With empty buffers and LEN = 0 only M_MAX is in question (R7, R22, R251). -/
theorem reset_bounded : State.reset.Bounded where
  mMax_pos := mMax_ne_zero
  vbuf_ok := ⟨.nil, nofun⟩
  txbuf_ok := ⟨.nil, nofun⟩
  rxbuf_ok := ⟨.nil, nofun⟩
  res_ok := ⟨.nil, nofun⟩
  len_ok := Nat.zero_le _

/-- Settles O53: the storage is bounded, and the sequencer is at rest in IDLE with no error. -/
theorem resetMeetsInvariant : Obligations.ResetMeetsInvariant := by
  unfold Obligations.ResetMeetsInvariant
  have hidle : State.reset.stState = .idle := rfl
  have hnone : State.reset.stErr = .none := rfl
  exact ⟨reset_bounded.inv_notBusy rfl (by simp [hidle]) (by simp [hidle, hnone]), progress_notBusy rfl⟩

/-! ### Late answers -/

/-- An answer is kept only by an exchange that is outstanding under the number it names (R190; log 10). -/
theorem receiveAnswer_not_outstanding {s : State} {call : Nat}
    (h : call ≠ s.calls.length ∨ ∀ job, s.major ≠ .exchange job) (a : Answer) : receiveAnswer call a s = s := by
  rcases receiveAnswer_cases call a s with ⟨job, hm, hc, -⟩ | ⟨-, e⟩
  · rcases h with hcall | hmajor
    · exact absurd hc hcall
    · exact absurd hm (hmajor job)
  · exact e

/-- Settles O49: the step hands the answer to `receiveAnswer`, which drops it. -/
theorem lateAnswerIsDropped : Obligations.LateAnswerIsDropped := by
  unfold Obligations.LateAnswerIsDropped
  intro s rest call a hin h
  calc step s = .next (receiveAnswer call a { s with inputs := rest }) := step_cons hin
    _ = .next { s with inputs := rest } :=
      congrArg _ (receiveAnswer_not_outstanding (s := { s with inputs := rest }) h a)

end Sys2Proof.Machine
end
